-- ==== Sys2Proof/Word.lean ====
section
/-! DEFINITION. The word types, the index types and the fixed-size tables (three contexts, four sections or sources,
sixteen devices) that the other files are written over. -/

namespace Sys2Proof

/-- A word of the switching image: every word is 16 bits (12, opening). -/
abbrev Word := BitVec 16

/-- The Timebase's millisecond count, 32 bits, wrapping (R175, R176). -/
abbrev Ms := BitVec 32

/-- A source S0 to S3. -/
abbrev SrcId := Fin 4
/-- A section B0 to B3. -/
abbrev SecId := Fin 4
/-- A tie position T0 to T2. -/
abbrev TieId := Fin 3
/-- A device D0 to D15. -/
abbrev DevId := Fin 16
/-- A transfer context X0 to X2. -/
abbrev CtxId := Fin 3
/-- A slot of the incident log, 0 to 31 (R168). -/
abbrev Slot := BitVec 5

def allFours : List (Fin 4) := [0, 1, 2, 3]
def allTies : List TieId := [0, 1, 2]
def allContexts : List CtxId := [0, 1, 2]
def allDevices : List DevId := [0, 1, 2, 3, 4, 5, 6, 7, 8, 9, 10, 11, 12, 13, 14, 15]

/-- Three like things, indexed by a context. -/
structure Three (α : Type) where
  e0 : α
  e1 : α
  e2 : α
  deriving DecidableEq, Repr

def Three.get {α : Type} (t : Three α) : Fin 3 → α
  | 0 => t.e0 | 1 => t.e1 | 2 => t.e2

def Three.set {α : Type} (t : Three α) (i : Fin 3) (a : α) : Three α :=
  match i with
  | 0 => { t with e0 := a } | 1 => { t with e1 := a } | 2 => { t with e2 := a }

def Three.fill {α : Type} (a : α) : Three α := ⟨a, a, a⟩

/-- Four like things, indexed by a source or a section. -/
structure Four (α : Type) where
  e0 : α
  e1 : α
  e2 : α
  e3 : α
  deriving DecidableEq, Repr

def Four.get {α : Type} (f : Four α) : Fin 4 → α
  | 0 => f.e0 | 1 => f.e1 | 2 => f.e2 | 3 => f.e3

def Four.set {α : Type} (f : Four α) (i : Fin 4) (a : α) : Four α :=
  match i with
  | 0 => { f with e0 := a } | 1 => { f with e1 := a } | 2 => { f with e2 := a } | 3 => { f with e3 := a }

def Four.fill {α : Type} (a : α) : Four α := ⟨a, a, a, a⟩

def Four.ofFn {α : Type} (g : Fin 4 → α) : Four α := ⟨g 0, g 1, g 2, g 3⟩

/-- Sixteen like things, indexed by a device: four rows of four. -/
structure Sixteen (α : Type) where
  rows : Four (Four α)
  deriving DecidableEq, Repr

/-- The row of a device index. -/
def rowOf (i : Fin 16) : Fin 4 := ⟨i.val / 4, by omega⟩
/-- The place of a device index in its row. -/
def colOf (i : Fin 16) : Fin 4 := ⟨i.val % 4, by omega⟩
/-- The device index at a row and a place. -/
def cellOf (r c : Fin 4) : Fin 16 := ⟨r.val * 4 + c.val, by omega⟩

def Sixteen.get {α : Type} (t : Sixteen α) (i : Fin 16) : α := (t.rows.get (rowOf i)).get (colOf i)

def Sixteen.set {α : Type} (t : Sixteen α) (i : Fin 16) (a : α) : Sixteen α :=
  ⟨t.rows.set (rowOf i) ((t.rows.get (rowOf i)).set (colOf i) a)⟩

def Sixteen.fill {α : Type} (a : α) : Sixteen α := ⟨Four.fill (Four.fill a)⟩

def Sixteen.ofFn {α : Type} (g : Fin 16 → α) : Sixteen α :=
  ⟨Four.ofFn fun r => Four.ofFn fun c => g (cellOf r c)⟩

/-- A set of sections or of sources: one Bool for each, so that equal sets are equal data. -/
abbrev FourSet := Four Bool
/-- A set of devices. -/
abbrev DevSet := Sixteen Bool

def FourSet.none : FourSet := Four.fill false
def DevSet.none : DevSet := Sixteen.fill false

def FourSet.toList (x : FourSet) : List (Fin 4) := allFours.filter fun i => x.get i
def DevSet.toList (x : DevSet) : List DevId := allDevices.filter fun d => x.get d

def FourSet.union (x y : FourSet) : FourSet := Four.ofFn fun i => x.get i || y.get i
def DevSet.union (x y : DevSet) : DevSet := Sixteen.ofFn fun d => x.get d || y.get d

/-- x lies wholly in y. -/
def FourSet.within (x y : FourSet) : Bool := allFours.all fun i => !x.get i || y.get i
/-- x and y share a member. -/
def FourSet.overlaps (x y : FourSet) : Bool := allFours.any fun i => x.get i && y.get i
def DevSet.isEmpty (x : DevSet) : Bool := allDevices.all fun d => !x.get d

/-- The lead section of a set: its lowest-numbered member (R7). -/
def FourSet.lowest (x : FourSet) : Fin 4 := if x.e0 then 0 else if x.e1 then 1 else if x.e2 then 2 else 3
/-- The highest-numbered member of a set (R4: the right border stands there). -/
def FourSet.highest (x : FourSet) : Fin 4 := if x.e3 then 3 else if x.e2 then 2 else if x.e1 then 1 else 0

/-- 1 for true, 0 for false: one bit of a word. -/
def bit (b : Bool) : Nat := if b then 1 else 0

end Sys2Proof
end

