-- ==== Sys2Proof/Config.lean ====
section
/-! DEFINITION. What the model fixes beside the manual. The manual leaves no result value of a command open, so there is
no free value here; the three constants below are the model's own, each with its log entry. -/

namespace Sys2Proof.Config

/-- The strap PG3 to PG0 as State.reset has sampled it. DESIGN CHOICE (log 5): the strap is the board's;
HARDWARE_RESET carries the strap it samples. -/
def resetStrap : BitVec 4 := 0

/-- How many heads of the request queue one event may work through, one inside another or one after another (R101).
DEDUCED (log 11): the queue holds four entries and there are three contexts, so fewer are ever needed. -/
def takingDepth : Nat := 32

/-- How many times one event may act on contexts that its own frames have freed (R126). DEDUCED (log 11): only three
contexts can wait on a slot, so fewer are ever needed. -/
def freeingRounds : Nat := 8

end Sys2Proof.Config
end

