-- ==== Sys2Proof/Syntax.lean ====
section
/-! DEFINITION. The commands of the block: one constructor for each row of spec/opcode_table.json. -/

namespace Sys2Proof

/-- The two ports that a master reaches the image through (R21). -/
inductive PortId where
  | p  -- the station processor's
  | f  -- the field-link scanner's
  deriving DecidableEq, Repr

/-- The direction of an access (02, 2.1). -/
inductive Direction where
  | read
  | write
  deriving DecidableEq, Repr

/-- An access as a master presents it: a word address, and for a write the data offered. -/
structure Access where
  dir : Direction
  addr : Word
  data : Word
  deriving DecidableEq, Repr

/-- One row of the table of operations and events each. The grants of a port (from `processorOpen` to `fieldWrite`)
carry out the access that the port holds, so that the outcome is decided at the grant (R23). An event names the source,
section, device or context it is about. -/
inductive Instr where
  /-- RST# held low, with the strap PG3 to PG0 it samples (R20, R36). -/
  | hardwareReset (strap : BitVec 4)
  | accessPresent (port : PortId) (a : Access)
  | accessWithdrawn (port : PortId)
  | processorOpen
  | processorClose
  | malformedCommandWrite
  | positionWrite
  | configurationWrite
  | commit
  | restart
  | eopClear
  | arm
  | disarm
  | release
  | manualRequest
  | attentionClear
  | deviceFlagClear
  | reportWordWrite
  | otherWordWrite (port : PortId)
  | scannerCommandRead
  | positionWord
  | fieldWrite
  | injectionWrite
  | reportWriteBack
  | healthLevelFall (n : SrcId)
  | healthLevelRise (n : SrcId)
  | lockLevelRise (b : SecId)
  | lockLevelFall (b : SecId)
  | eopFilteredChange
  | eopFilterSeed
  | syncLevelChange
  | syncGrant
  | rideThroughExpiry (n : SrcId)
  | stabilityExpiry (n : SrcId)
  | coolDownExpiry (n : SrcId)
  | operateDeadlineExpiry (d : DevId)
  | startLimitExpiry (k : CtxId)
  | deadBusExpiry (k : CtxId)
  | restoreStaggerExpiry (k : CtxId)
  | settleExpiry
  | syncWindowExpiry
  | overlapExpiry (k : CtxId)
  /-- The 1 ms tick, with the levels of SH3–SH0, LK3–LK0, EOP and SYNC that it samples (R176). -/
  | millisecondTick (sh lk : BitVec 4) (eop sync : Bool)
  deriving DecidableEq, Repr

end Sys2Proof
end

