-- ==== Sys2Proof/WellFormed.lean ====
section
/-! DEFINITION. Which commands are well formed. The index types leave one thing to check: a read offers no data. -/

namespace Sys2Proof

/-- A read offers no data: its data field is zero. -/
def Access.wellFormed (a : Access) : Bool :=
  match a.dir with
  | .read => a.data == 0
  | .write => true

/-- Every command whose access, if it carries one, is well formed. -/
def Instr.wellFormed : Instr → Bool
  | .accessPresent _ a => a.wellFormed
  | _ => true

end Sys2Proof
end

