-- ==== Sys2Proof/Machine/State.lean ====
section
/-! DEFINITION. The state of the SG-440 as plain data, block by block as the manual names them, and the state after
hardware reset. -/

namespace Sys2Proof.Machine

/-! ## Stops -/

/-- Why the block stops with a fault: nothing does. The manual gives the part no fault: a refused write completes to its
master as a normal write (R26, R71), and no command of this model stops. -/
inductive Fault where
  deriving DecidableEq, Repr

/-- Why a command has no meaning in the model. -/
inductive Refusal where
  /-- Raised by `exec` for a row that has no meaning yet; every row has one, so nothing raises it. Safe. -/
  | notModelled (mnemonic : String)
  deriving DecidableEq, Repr

/-! ## Names -/

/-- Words by address or offset: strictly rising keys, no entry zero; an unlisted key reads 0000h (log 4). -/
abbrev Memory := List (Nat × Word)

/-- The code of a command that reaches memory: 01 OPEN, 10 CLOSE (12.1). -/
inductive Cmd where
  | opn
  | cls
  deriving DecidableEq, Repr

/-- A breaker's observed position (R37, 12.1). -/
inductive Position where
  | opened
  | closed
  | moving
  | unknown
  deriving DecidableEq, Repr

/-- Who may command a device (R49). -/
inductive Owner where
  | processor
  | context (k : CtxId)
  | emergency
  deriving DecidableEq, Repr

/-- The owner at enqueue of an injection (R30). -/
inductive Enqueuer where
  | context (k : CtxId)
  | emergency
  deriving DecidableEq, Repr

/-- A device's operation (R37, R42): IDLE, or in progress toward a target with its deadline. -/
inductive Operation where
  | idle
  | inProgress (target : Cmd) (deadline : Ms)
  deriving DecidableEq, Repr

/-- The three requesters of the Memory Arbiter (R29). -/
inductive Requester where
  | p
  | f
  | w
  deriving DecidableEq, Repr

/-- A way of supplying a set (R10). -/
inductive Route where
  | source (s : SrcId)
  | tieLeft
  | tieRight
  deriving DecidableEq, Repr

/-- The supply of an island (R7). -/
inductive Supply where
  | unfed
  | fed (s : SrcId)
  | parallel
  deriving DecidableEq, Repr

/-- A source's state (05, 5.2). -/
inductive SourceState where
  | failed
  | proving
  | available
  | dip
  deriving DecidableEq, Repr

/-- A section's state (06, 6.1). -/
inductive SectionState where
  | disarmed
  | armed
  | queued
  | transferring
  | held
  | lockout
  deriving DecidableEq, Repr

/-- The kind of a request or transfer (R99, R108). -/
inductive Kind where
  | supply
  | return
  | manual
  deriving DecidableEq, Repr

/-- OPEN or CLOSED transition (R99). -/
inductive Transition where
  | opn
  | closed
  deriving DecidableEq, Repr

/-- FREE, ACTIVE or ENDING (R108). -/
inductive ContextState where
  | free
  | active
  | ending
  deriving DecidableEq, Repr

/-- The phases of a context (R108). -/
inductive Phase where
  | select
  | awaitSource
  | opening
  | deadWait
  | closing
  | restoring
  | syncWait
  | closingParallel
  | openingOld
  | ending
  deriving DecidableEq, Repr

/-- A context's sync claim (R129). -/
inductive Claim where
  | none
  | waiting
  | held
  deriving DecidableEq, Repr

/-- The result codes of TRANSFER_END (11.1). -/
inductive Result where
  | done
  | doneWithheld
  | recovered
  | noRoute
  | deviceFailed
  | parallelLimit
  | syncTimeout
  | operatorOpen
  | islandSplit
  | locked
  | disarmed
  | tripped
  | emergency
  | returnCancelled
  | supplied
  deriving DecidableEq, Repr

/-- Which timer a context's phase timer is (R127). The sync window is the selector's (R134). -/
inductive TimerKind where
  | startLimit
  | deadBus
  | stagger
  | overlap
  deriving DecidableEq, Repr

/-- The commit status (R14). -/
inductive CommitStatus where
  | none
  | pending
  | applied
  | rejected
  deriving DecidableEq, Repr

/-- How far the EOP filter's seeding has come (R159): before the first application, waiting for the first tick after
it, that tick has sampled the line, seeded. -/
inductive SeedState where
  | notApplied
  | waiting
  | due
  | seeded
  deriving DecidableEq, Repr

/-! ## The working copy -/

/-- The kind of a device entry with the topology fields that kind uses (R3). -/
inductive DeviceKind where
  | unused
  | incomer (sec : SecId) (src : SrcId)
  | tie (t : TieId)
  | feeder (sec : SecId)
  deriving DecidableEq, Repr

/-- A device entry of the working copy (R3, 12.3). Fields its kind does not use are not kept. -/
structure DeviceEntry where
  kind : DeviceKind
  command : Word
  position : Word
  limit : Nat        -- operate limit, ms
  emergencyOpen : Bool
  shed : Bool
  priority : Nat
  demand : Nat
  deriving DecidableEq, Repr

/-- A source entry of the working copy (R1, 12.3). Durations are in ms. -/
structure SourceEntry where
  generator : Bool
  capacity : Nat
  filterLength : Nat
  rideThrough : Nat
  stability : Nat
  startLimit : Nat
  coolDown : Nat
  deriving DecidableEq, Repr

/-- A section's return policy (R2): none, or the transition of its returns. -/
structure SectionEntry where
  baseLoad : Nat
  policy : Option Transition
  deadBus : Nat
  stagger : Nat
  routes : List Route
  deriving DecidableEq, Repr

/-- The response table (R171): the action of each class that has two, and the attention field of every class. -/
structure Responses where
  lossTransfer : Bool        -- SOURCE_LOSS: TRANSFER, not REPORT
  returnReturn : Bool        -- SOURCE_RETURN: RETURN, not REPORT
  nextRoute : Bool           -- DEVICE_NO_RESPONSE: NEXT_ROUTE, not ABANDON
  treatAsLoss : Bool         -- PROTECTION_TRIP: TREAT_AS_LOSS, not LOCKOUT
  openTransition : Bool      -- SYNC_TIMEOUT: OPEN_TRANSITION, not ABANDON
  attention : BitVec 11      -- bit c: the attention field of class c
  deriving DecidableEq, Repr

/-- The working copy, read into its entries at application (R13, R16). -/
structure Board where
  devices : Sixteen DeviceEntry
  sources : Four SourceEntry
  sections : Four SectionEntry
  responses : Responses
  eopRise : Bool             -- a filtered rise of EOP is an edge (R159)
  eopFall : Bool             -- a filtered fall of EOP is an edge
  overlap : Nat              -- paralleling overlap limit, ms
  window : Nat               -- sync window, ms
  settle : Nat               -- selector settle time, ms
  deriving DecidableEq, Repr

/-! ## The blocks -/

/-- A port (R21): the access it holds, whose wait line is then high, and the word it last drove for a read. -/
structure Port where
  access : Option Access
  data : Word
  deriving DecidableEq, Repr

/-- A line filter (R76): filtered level, count of consecutive differing samples, and whether the level changes at this
tick (the change itself is an event of its own row; log 2). -/
structure Filter where
  level : Bool
  count : BitVec 3
  change : Bool
  deriving DecidableEq, Repr

/-- An entry of the injection queue (R30). -/
structure Injection where
  device : DevId
  code : Cmd
  tag : BitVec 4
  owner : Enqueuer
  deriving DecidableEq, Repr

/-- The Device Tracker's record of a device (R37), less the fields of the working copy and the copy of its entry in the
injection queue. An entry without a record is blank. -/
structure Device where
  owner : Owner
  tag : BitVec 4
  observed : Position
  available : Bool
  tripped : Bool             -- reported tripped
  pending : Bool
  op : Operation
  overrun : Bool
  fail : Bool
  trip : Bool
  deferred : Option Word
  deriving DecidableEq, Repr

/-- The Configuration Store (R13, R20). The guard state is GUARDING exactly while there is a working copy. -/
structure ConfigStore where
  page : BitVec 4
  staged : Memory
  pendingCopy : Option Memory
  working : Option Board
  status : CommitStatus
  reject : Option Nat
  deriving DecidableEq, Repr

/-- The Source Monitor's state of a source (R76 to R85). A timer is none when stopped, else the ms count it expires at. -/
structure Source where
  state : SourceState
  health : Filter
  ride : Option Ms
  stab : Option Ms
  cool : Option Ms
  dipStart : Ms
  demand : Bool
  deriving DecidableEq, Repr

/-- The Section Controller's state of a section (R91). -/
structure Section where
  state : SectionState
  borrow : Option TieId
  withheld : DevSet
  deriving DecidableEq, Repr

/-- An entry of the request queue (R99), with the word that asked for a MANUAL (log 20). -/
structure Request where
  lead : SecId
  set : FourSet
  kind : Kind
  transition : Transition
  target : Option Route
  cause : Option Slot
  offered : Word
  deriving DecidableEq, Repr

/-- The record of a transfer context (R108, R143), with what R116, R122, R148 need it to remember. The captured set is
the set of devices it owns. -/
structure Context where
  state : ContextState
  kind : Kind
  converted : Bool
  transition : Transition
  set : FourSet
  lead : SecId
  oldTie : Option DevId
  oldSources : FourSet
  target : Option Route
  fixed : Bool               -- the target is fixed (R109, R112)
  routeDevice : Option DevId
  abandoned : DevSet
  awaited : Option SrcId
  phase : Phase
  excluded : List Route
  opening : DevSet           -- OPENs of OPENING not yet settled (R116)
  sent : DevSet              -- devices on which an OPEN or a restore CLOSE of its own is in memory (R116, R122, R147)
  failed : DevSet            -- OPENs of OPENING that failed
  shed : DevSet
  restored : DevSet
  carried : DevSet
  restoreList : List DevId
  cursor : Nat
  restoring : Option DevId   -- the feeder at the cursor whose CLOSE is queued and not settled (R122)
  withheld : DevSet          -- withheld result
  closeInMemory : Bool       -- its route CLOSE has reached memory (R119, R148)
  timer : Option (TimerKind × Ms)
  claim : Claim
  result : Option Result
  cause : Option Slot
  start : Ms
  reroute : Bool
  deriving DecidableEq, Repr

/-- What the Sync Selector holds while it has a holder (R128, R130, R131). The settle timer is none once it has expired. -/
structure SyncHold where
  context : CtxId
  running : SrcId
  target : SrcId
  filter : Filter
  settle : Option Ms
  window : Ms
  deriving DecidableEq, Repr

/-- The Sync Selector (R128). `due` holds the claims that the present tick has found waiting with no holder: they may be
granted at this tick, a claim that joins after it may not (R130; log 2). -/
structure SyncSelector where
  hold : Option SyncHold
  claims : List CtxId
  due : List CtxId
  deriving DecidableEq, Repr

/-- The Emergency Latch (R159, R160). -/
structure Latch where
  isSet : Bool
  filter : Filter
  seed : SeedState
  deriving DecidableEq, Repr

/-- The Incident Recorder (R168, R172, R173). `log` holds the frame images by 8 × slot + word; `marks` holds for each
context the slot whose mark names it. -/
structure Recorder where
  index : Slot
  log : Memory
  marks : Three (Option Slot)
  attention : BitVec 11
  deriving DecidableEq, Repr

/-- The discrete inputs as the last tick sampled them (00, "Signals"). -/
structure Pins where
  sh : BitVec 4
  lk : BitVec 4
  eop : Bool
  sync : Bool
  deriving DecidableEq, Repr

/-- The whole block, the switching image it guards, and the commands that wait. -/
structure State where
  pPort : Port
  fPort : Port
  lastGranted : Requester
  image : Memory
  injections : List Injection
  dirty : List Nat
  devices : Sixteen Device
  store : ConfigStore
  sources : Four Source
  locks : Four Filter
  sections : Four Section
  queue : List Request
  lastAssigned : CtxId
  contexts : Three Context
  freed : Three Bool         -- freed by a frame's reuse of its slot in the running event (R126; log 10)
  sync : SyncSelector
  latch : Latch
  recorder : Recorder
  ms : Ms
  pins : Pins
  pending : List Instr
  deriving DecidableEq, Repr

/-! ## Values after hardware reset -/

def Filter.low : Filter := { level := false, count := 0, change := false }

/-- A record as application builds it (R17, R57). -/
def Device.blank : Device :=
  { owner := .processor, tag := 0, observed := .unknown, available := false, tripped := false, pending := false,
    op := .idle, overrun := false, fail := false, trip := false, deferred := none }

/-- A FREE context holds nothing (R108). -/
def Context.blank : Context :=
  { state := .free, kind := .supply, converted := false, transition := .opn, set := FourSet.none, lead := 0,
    oldTie := none, oldSources := FourSet.none, target := none, fixed := false, routeDevice := none,
    abandoned := DevSet.none, awaited := none, phase := .select, excluded := [], opening := DevSet.none,
    sent := DevSet.none, failed := DevSet.none, shed := DevSet.none, restored := DevSet.none,
    carried := DevSet.none, restoreList := [], cursor := 0, restoring := none, withheld := DevSet.none,
    closeInMemory := false, timer := none, claim := .none, result := none, cause := none, start := 0,
    reroute := false }

/-- A source after hardware reset (R90). -/
def Source.reset : Source :=
  { state := .failed, health := .low, ride := none, stab := none, cool := none, dipStart := 0, demand := false }

/-- A section after hardware reset (R107). -/
def Section.reset : Section := { state := .disarmed, borrow := none, withheld := DevSet.none }

def Port.reset : Port := { access := none, data := 0 }

/-- The 64 status words 200h to 23Fh (R36). -/
def statusOffsets : List Nat := (List.range 64).map (0x200 + ·)

/-- The machine right after hardware reset: R20, R36, R57, R90, R107, R128, R167, R175. The strap, the pins and the
memory, which the manual leaves to the board, are log 4 and log 5. -/
def State.reset : State :=
  { pPort := .reset, fPort := .reset, lastGranted := .w, image := [], injections := [], dirty := statusOffsets,
    devices := Sixteen.fill Device.blank,
    store := { page := Config.resetStrap, staged := [], pendingCopy := none, working := none, status := .none,
               reject := none },
    sources := Four.fill Source.reset, locks := Four.fill Filter.low, sections := Four.fill Section.reset,
    queue := [], lastAssigned := 2, contexts := Three.fill Context.blank, freed := Three.fill false,
    sync := { hold := none, claims := [], due := [] },
    latch := { isSet := false, filter := .low, seed := .notApplied },
    recorder := { index := 0, log := [], marks := Three.fill none, attention := 0 },
    ms := 0, pins := { sh := 0, lk := 0, eop := false, sync := false }, pending := [] }

end Sys2Proof.Machine
end

