-- ==== Sys2Proof/Machine/Memory.lean ====
section
/-! DEFINITION. Word memory in its canonical form: the switching image, the configuration copies and the frame images. -/

namespace Sys2Proof.Machine

/-- The word at a key; an unlisted key reads 0000h (log 4). -/
def Memory.read : Memory → Nat → Word
  | [], _ => 0
  | (b, x) :: m, a => if a = b then x else Memory.read m a

/-- Put a word at a key, keeping the canonical form: writing 0000h removes the entry. -/
def Memory.write : Memory → Nat → Word → Memory
  | [], a, v => if v = 0 then [] else [(a, v)]
  | (b, x) :: m, a, v =>
    if a < b then (if v = 0 then (b, x) :: m else (a, v) :: (b, x) :: m)
    else if a = b then (if v = 0 then m else (a, v) :: m)
    else (b, x) :: Memory.write m a v

/-- Every listed key is above `lo`. -/
def Memory.above (lo : Nat) : Memory → Bool
  | [] => true
  | (a, _) :: _ => decide (lo < a)

/-- The canonical form: keys strictly rising, no entry zero. -/
def Memory.wf : Memory → Bool
  | [] => true
  | (a, v) :: m => v != 0 && Memory.above a m && Memory.wf m

/-- Put the words `ws` at the keys from `a` on. -/
def Memory.writeAll (m : Memory) (a : Nat) : List Word → Memory
  | [] => m
  | w :: ws => Memory.writeAll (m.write a w) (a + 1) ws

end Sys2Proof.Machine
end

