-- ==== Sys2Proof/Machine/Operands.lean ====
section
/-! DEFINITION. The fields of the words that software and the scanner write: command and position words, control words,
configuration entries (chapter 12), and the addresses of the guard page. -/

namespace Sys2Proof.Machine

/-- Bits lo + len − 1 down to lo of a word, as a number. -/
def field (w : Word) (lo len : Nat) : Nat := (w.extractLsb' lo len).toNat

/-- Bit i of a word. -/
def flag (w : Word) (i : Nat) : Bool := w.getLsbD i

/-- The index of a section or source, when the number is one. -/
def four? (n : Nat) : Option (Fin 4) := if h : n < 4 then some ⟨n, h⟩ else none

/-! ## Command and position words (12.1, R177) -/

/-- The code of a command word: none when malformed (R61). -/
def commandCode (w : Word) : Option Cmd :=
  match field w 0 2 with
  | 1 => some .opn
  | 2 => some .cls
  | _ => none

/-- The tag of a command word, bits 7 to 4. -/
def commandTag (w : Word) : BitVec 4 := w.extractLsb' 4 4

def Cmd.code : Cmd → Nat
  | .opn => 1
  | .cls => 2

/-- The position a command aims at (R42). -/
def Cmd.target : Cmd → Position
  | .opn => .opened
  | .cls => .closed

/-- A command word as the SG-440 stores it (R177): code, origin (0 station processor, 1 SG-440), tag, all else zero. -/
def commandWord (code : Cmd) (origin : Nat) (tag : BitVec 4) : Word :=
  BitVec.ofNat 16 (code.code + 4 * origin + 16 * tag.toNat)

/-- The position in bits 1 to 0 of a position word. -/
def positionOf (w : Word) : Position :=
  match field w 0 2 with
  | 0 => .opened
  | 1 => .closed
  | 2 => .moving
  | _ => .unknown

def Position.code : Position → Nat
  | .opened => 0
  | .closed => 1
  | .moving => 2
  | .unknown => 3

/-! ## Routes (12.3) -/

def Route.code : Route → Nat
  | .source s => s.val + 1
  | .tieLeft => 5
  | .tieRight => 6

/-- The route of a code: none for 0 (empty) and for the codes above 6. -/
def routeOf (n : Nat) : Option Route :=
  match n with
  | 1 => some (.source 0)
  | 2 => some (.source 1)
  | 3 => some (.source 2)
  | 4 => some (.source 3)
  | 5 => some .tieLeft
  | 6 => some .tieRight
  | _ => none

/-- The code of a route or of none. -/
def routeCode : Option Route → Nat
  | none => 0
  | some r => r.code

/-! ## Time fields (12.3, R178) -/

/-- A time field is illegal when any of its bits above the unit field is set (R15). -/
def timeLegal (w : Word) : Bool := field w 10 6 == 0

/-- One unit of a time field, in ms. -/
def timeUnit (u : Nat) : Nat :=
  match u with
  | 0 => 1
  | 1 => 10
  | 2 => 100
  | _ => 1000

/-- The duration (v + 1) × u of a time field, in ms (R178). -/
def duration (w : Word) : Nat := (field w 0 8 + 1) * timeUnit (field w 8 2)

/-! ## Configuration entries (12.3) -/

def deviceOffset (d : DevId) : Nat := 5 * d.val
def sourceOffset (n : SrcId) : Nat := 0x50 + 6 * n.val
def sectionOffset (b : SecId) : Nat := 0x68 + 5 * b.val
def responseOffset (c : Nat) : Nat := 0x80 + c

/-- The kind of a device entry with the topology fields the kind uses (R3). A validated copy holds no other index. -/
def deviceKindOf (w0 : Word) : DeviceKind :=
  let place := field w0 2 3
  match field w0 0 2 with
  | 1 =>
    match four? place, four? (field w0 5 3) with
    | some b, some s => .incomer b s
    | _, _ => .unused
  | 2 => if h : place < 3 then .tie ⟨place, h⟩ else .unused
  | 3 =>
    match four? place with
    | some b => .feeder b
    | none => .unused
  | _ => .unused

def DeviceEntry.blank : DeviceEntry :=
  { kind := .unused, command := 0, position := 0, limit := 1, emergencyOpen := false, shed := false, priority := 0,
    demand := 0 }

/-- A device entry of a copy, with the fields its kind uses (R3). -/
def deviceEntryOf (m : Memory) (d : DevId) : DeviceEntry :=
  let o := deviceOffset d
  let w0 := m.read o
  let feeder : Bool := field w0 0 2 == 3
  match deviceKindOf w0 with
  | .unused => DeviceEntry.blank
  | k =>
    { kind := k, command := m.read (o + 1), position := m.read (o + 2), limit := duration (m.read (o + 3)),
      emergencyOpen := flag w0 8, shed := feeder && flag w0 9, priority := if feeder then field w0 10 3 else 0,
      demand := if feeder then field (m.read (o + 4)) 0 8 else 0 }

/-- A source entry of a copy (R1). -/
def sourceEntryOf (m : Memory) (n : SrcId) : SourceEntry :=
  let o := sourceOffset n
  { generator := flag (m.read o) 0, filterLength := field (m.read o) 4 3 + 1, capacity := field (m.read (o + 1)) 0 10,
    rideThrough := duration (m.read (o + 2)), stability := duration (m.read (o + 3)),
    startLimit := duration (m.read (o + 4)), coolDown := duration (m.read (o + 5)) }

/-- The six route codes of a section entry, in order (R11). -/
def routeCodes (m : Memory) (b : SecId) : List Nat :=
  let w3 := m.read (sectionOffset b + 3)
  let w4 := m.read (sectionOffset b + 4)
  [field w3 0 4, field w3 4 4, field w3 8 4, field w3 12 4, field w4 0 4, field w4 4 4]

/-- A section entry of a copy (R2, R11: the list ends at the first empty entry). -/
def sectionEntryOf (m : Memory) (b : SecId) : SectionEntry :=
  let o := sectionOffset b
  { baseLoad := field (m.read o) 0 10,
    policy := match field (m.read o) 12 2 with
      | 1 => some .opn
      | 2 => some .closed
      | _ => none
    deadBus := duration (m.read (o + 1)), stagger := duration (m.read (o + 2)),
    routes := ((routeCodes m b).takeWhile (· != 0)).filterMap routeOf }

/-- The action code of a response entry, bits 1 to 0. -/
def actionOf (m : Memory) (c : Nat) : Nat := field (m.read (responseOffset c)) 0 2

/-- The response table of a copy (R171). -/
def responsesOf (m : Memory) : Responses :=
  { lossTransfer := actionOf m 1 == 1, returnReturn := actionOf m 2 == 1, nextRoute := actionOf m 3 == 1,
    treatAsLoss := actionOf m 4 == 1, openTransition := actionOf m 7 == 1,
    attention := (List.range 11).foldl
      (fun x c => if flag (m.read (responseOffset c)) 2 then x ||| BitVec.ofNat 11 (2 ^ c) else x) 0 }

/-- The working copy that a validated copy becomes at application (R16). -/
def boardOf (m : Memory) : Board :=
  let edge := (m.read 0x90).toNat
  { devices := Sixteen.ofFn (deviceEntryOf m), sources := Four.ofFn (sourceEntryOf m),
    sections := Four.ofFn (sectionEntryOf m), responses := responsesOf m,
    eopRise := edge == 1 || edge == 3, eopFall := edge == 2 || edge == 3,
    overlap := duration (m.read 0x91), window := duration (m.read 0x92), settle := duration (m.read 0x93) }

/-- What every block sees while the working copy is empty (R19): no device, nothing configured. -/
def Board.empty : Board := boardOf []

/-! ## Addresses (R22) -/

/-- The address of a guard-page offset: the page is the top four bits of an address (00: base = PG × 1000h). -/
def guardAddress (page : BitVec 4) (off : Nat) : Word := BitVec.ofNat 16 (page.toNat * 0x1000 + off)

def inGuardPage (page : BitVec 4) (a : Word) : Bool := a.extractLsb' 12 4 == page

/-- The guard-page offset of an address in the page. -/
def guardOffset (a : Word) : Nat := field a 0 12

/-- The report words: 200h to 23Fh and 400h to 4FFh (R22). -/
def isReportOffset (off : Nat) : Bool :=
  (decide (0x200 ≤ off) && decide (off < 0x240)) || (decide (0x400 ≤ off) && decide (off < 0x500))

/-- The classes of R22. -/
inductive WordClass where
  | command (d : DevId)
  | position (d : DevId)
  | configuration (off : Nat)
  | control (off : Nat)
  | report (off : Nat)
  | other
  deriving DecidableEq, Repr

/-- The class of a guard-page offset. -/
def guardClass (off : Nat) : WordClass :=
  if off < 0x100 then .configuration off
  else if off < 0x108 then .control off
  else if isReportOffset off then .report off
  else .other

end Sys2Proof.Machine
end

