-- ==== Sys2Proof/Machine/Board.lean ====
section
/-! DEFINITION. Validation of the staged copy (R15): the checks of each word, in ascending offset order. -/

namespace Sys2Proof.Machine

/-- Raw fields of a staged device entry. -/
def rawKind (m : Memory) (d : DevId) : Nat := field (m.read (deviceOffset d)) 0 2
def rawPlace (m : Memory) (d : DevId) : Nat := field (m.read (deviceOffset d)) 2 3
def rawSource (m : Memory) (d : DevId) : Nat := field (m.read (deviceOffset d)) 5 3
def rawCommand (m : Memory) (d : DevId) : Word := m.read (deviceOffset d + 1)
def rawPosition (m : Memory) (d : DevId) : Word := m.read (deviceOffset d + 2)

/-- The entries at lower offsets. -/
def lowerDevices (d : DevId) : List DevId := allDevices.filter fun x => x < d

/-- Device w0 fails (R15): an index too large, or a source or tie position that a lower entry uses. -/
def deviceKindFails (m : Memory) (d : DevId) : Bool :=
  match rawKind m d with
  | 1 =>
    decide (3 < rawPlace m d) || decide (3 < rawSource m d) ||
      (lowerDevices d).any fun x => rawKind m x == 1 && rawSource m x == rawSource m d
  | 2 =>
    decide (2 < rawPlace m d) || (lowerDevices d).any fun x => rawKind m x == 2 && rawPlace m x == rawPlace m d
  | 3 => decide (3 < rawPlace m d)
  | _ => false

/-- An address lies in the guard page, or is an address of a used entry at a lower offset (R15). -/
def addressTaken (page : BitVec 4) (m : Memory) (d : DevId) (a : Word) : Bool :=
  inGuardPage page a || (lowerDevices d).any fun x => rawKind m x != 0 && (rawCommand m x == a || rawPosition m x == a)

/-- A word of a device entry fails (R15). -/
def deviceWordFails (page : BitVec 4) (m : Memory) (d : DevId) (i : Nat) : Bool :=
  match i with
  | 0 => deviceKindFails m d
  | 1 => rawKind m d != 0 && addressTaken page m d (rawCommand m d)
  | 2 =>
    rawKind m d != 0 && (addressTaken page m d (rawPosition m d) || rawPosition m d == rawCommand m d)
  | 3 => rawKind m d != 0 && !timeLegal (m.read (deviceOffset d + 3))
  | _ => false

/-- A word of a source entry fails: w2 to w5 are time fields (R15). -/
def sourceWordFails (m : Memory) (n : SrcId) (i : Nat) : Bool := decide (2 ≤ i) && !timeLegal (m.read (sourceOffset n + i))

/-- The staged table has an INCOMER of the source. -/
def stagedIncomer (m : Memory) (n : Nat) : Bool := allDevices.any fun d => rawKind m d == 1 && rawSource m d == n

/-- The staged table has a TIE at the position. -/
def stagedTie (m : Memory) (t : Nat) : Bool := allDevices.any fun d => rawKind m d == 2 && rawPlace m d == t

/-- Route number i (from 0) of a section's list fails (R15): a code above 6, a route after an empty entry, a route
listed before, or a route that names no device. -/
def routeFails (m : Memory) (b : SecId) (i : Nat) : Bool :=
  let codes := routeCodes m b
  let before := codes.take i
  match codes.getD i 0 with
  | 0 => false
  | r =>
    decide (6 < r) || before.contains 0 || before.contains r ||
      (decide (r ≤ 4) && !stagedIncomer m (r - 1)) ||
      (r == 5 && (b.val == 0 || !stagedTie m (b.val - 1))) ||
      (r == 6 && (b.val == 3 || !stagedTie m b.val))

/-- A word of a section entry fails (R15). -/
def sectionWordFails (m : Memory) (b : SecId) (i : Nat) : Bool :=
  match i with
  | 0 => field (m.read (sectionOffset b)) 12 2 == 3
  | 1 | 2 => !timeLegal (m.read (sectionOffset b + i))
  | 3 => [0, 1, 2, 3].any (routeFails m b)
  | _ => [4, 5].any (routeFails m b)

/-- The classes whose response entry has two legal actions (R171). -/
def twoActions (c : Nat) : Bool := c == 1 || c == 2 || c == 3 || c == 4 || c == 7

/-- A response entry fails: its action code is not legal for the class (R15, R171). -/
def responseFails (m : Memory) (c : Nat) : Bool := decide ((if twoActions c then 1 else 0) < actionOf m c)

/-- The word of the staged copy at an offset fails its checks (R15). -/
def wordFails (page : BitVec 4) (m : Memory) (off : Nat) : Bool :=
  if h : off < 0x50 then deviceWordFails page m ⟨off / 5, by omega⟩ (off % 5)
  else if h : off < 0x68 then sourceWordFails m ⟨(off - 0x50) / 6, by omega⟩ ((off - 0x50) % 6)
  else if h : off < 0x7C then sectionWordFails m ⟨(off - 0x68) / 5, by omega⟩ ((off - 0x68) % 5)
  else if 0x80 ≤ off ∧ off < 0x8B then responseFails m (off - 0x80)
  else if off = 0x90 then decide (3 < (m.read off).toNat)
  else if off = 0x91 then !timeLegal (m.read off) || decide (500 < duration (m.read off))
  else if off = 0x92 ∨ off = 0x93 then !timeLegal (m.read off)
  else false

/-- The offset of the first word that fails, in ascending order from 000h to 093h (R15). -/
def firstFailure (page : BitVec 4) (m : Memory) : Option Nat := (List.range 0x94).find? (wordFails page m)

end Sys2Proof.Machine
end

