-- ==== Sys2Proof/Machine/Topology.lean ====
section
/-! DEFINITION. What is worked out from the working copy and the device records at the event that needs it, and never
stored: counted closed, islands, supply, routes, load and spare (R4 to R12), usability (R56). -/

namespace Sys2Proof.Machine

/-! ## The working copy -/

/-- The working copy, or nothing configured while UNCONFIGURED. -/
def State.board (s : State) : Board := s.store.working.getD Board.empty

/-- GUARDING, not UNCONFIGURED (R13, R19). -/
def State.guarding (s : State) : Bool := s.store.working.isSome

def State.entry (s : State) (d : DevId) : DeviceEntry := s.board.devices.get d
def State.kindOf (s : State) (d : DevId) : DeviceKind := (s.entry d).kind
def State.sourceEntry (s : State) (n : SrcId) : SourceEntry := s.board.sources.get n
def State.sectionEntry (s : State) (b : SecId) : SectionEntry := s.board.sections.get b

/-- A device record exists: the entry's kind is not UNUSED (R37). -/
def State.hasRecord (s : State) (d : DevId) : Bool :=
  match s.kindOf d with
  | .unused => false
  | _ => true

def State.device (s : State) (d : DevId) : Device := s.devices.get d
def State.context (s : State) (k : CtxId) : Context := s.contexts.get k
def State.section (s : State) (b : SecId) : Section := s.sections.get b
def State.source (s : State) (n : SrcId) : Source := s.sources.get n

def State.active (s : State) (k : CtxId) : Bool := (s.context k).state == .active

/-- The context's captured set: the devices it owns (R49, R108). -/
def State.owns (s : State) (k : CtxId) (d : DevId) : Bool :=
  s.hasRecord d && (s.device d).owner == .context k

/-- The context that owns a device, if one does. -/
def State.ownerContext (s : State) (d : DevId) : Option CtxId :=
  match (s.device d).owner with
  | .context k => some k
  | _ => none

/-- The device's entry in the injection queue: the record's queued-injection field (R37). -/
def State.queued (s : State) (d : DevId) : Option Injection := s.injections.find? fun e => e.device == d

/-! ## Devices and sections (R3, R4) -/

/-- The sections a device connects to (R4). -/
def DeviceKind.sections : DeviceKind → List SecId
  | .unused => []
  | .incomer b _ => [b]
  | .feeder b => [b]
  | .tie t => [⟨t.val, by omega⟩, ⟨t.val + 1, by omega⟩]

def State.connects (s : State) (d : DevId) (x : FourSet) : Bool := (s.kindOf d).sections.any fun b => x.get b

/-- A TIE inside the set: both sections it touches belong to it (R4). -/
def State.tieInside (s : State) (d : DevId) (x : FourSet) : Bool :=
  match s.kindOf d with
  | .tie t => (DeviceKind.tie t).sections.all fun b => x.get b
  | _ => false

/-- The section a frame names for a device: for a TIE the lower-numbered section it touches (R41). -/
def State.frameSection (s : State) (d : DevId) : Option SecId := (s.kindOf d).sections.head?

/-- The source of an INCOMER (R41). -/
def State.incomerSource (s : State) (d : DevId) : Option SrcId :=
  match s.kindOf d with
  | .incomer _ n => some n
  | _ => none

/-- The incomer of a source, if there is one (R3). -/
def State.incomerOf (s : State) (n : SrcId) : Option DevId :=
  allDevices.find? fun d => s.incomerSource d == some n

/-- The TIE at a tie position, if there is one (R3). -/
def State.tieAt (s : State) (t : TieId) : Option DevId :=
  allDevices.find? fun d => s.kindOf d == .tie t

/-- An INCOMER standing on a section of the set. -/
def State.incomerOn (s : State) (x : FourSet) (d : DevId) : Bool :=
  match s.kindOf d with
  | .incomer b _ => x.get b
  | _ => false

/-- A FEEDER standing on a section of the set. -/
def State.feederOn (s : State) (x : FourSet) (d : DevId) : Bool :=
  match s.kindOf d with
  | .feeder b => x.get b
  | _ => false

/-- A device is usable as a route or restore device (R56). -/
def State.usableDevice (s : State) (d : DevId) : Bool :=
  !(s.device d).fail && !(s.device d).trip && (s.device d).available

/-! ## Counted closed, islands, supply (R5 to R7) -/

/-- Counted closed (R5): observed CLOSED, MOVING or UNKNOWN, or IN_PROGRESS toward CLOSE. -/
def State.countedClosed (s : State) (d : DevId) : Bool :=
  s.hasRecord d &&
    ((s.device d).observed != .opened ||
      match (s.device d).op with
      | .inProgress .cls _ => true
      | _ => false)

/-- The tie position t is joined, by the devices that `cl` counts closed (R6). -/
def State.joined (s : State) (cl : DevId → Bool) (t : TieId) : Bool :=
  allDevices.any fun d => s.kindOf d == .tie t && cl d

/-- The section a stands in the island of b: every tie position between them is joined (R6). -/
def State.sameIsland (s : State) (cl : DevId → Bool) (a b : SecId) : Bool :=
  allTies.all fun t => !(decide (min a.val b.val ≤ t.val) && decide (t.val < max a.val b.val)) || s.joined cl t

/-- The sections joined to a section of the set: for one section, its island (R6). -/
def State.reach (s : State) (cl : DevId → Bool) (x : FourSet) : FourSet :=
  Four.ofFn fun b => allFours.any fun a => x.get a && s.sameIsland cl a b

def singleSection (b : Fin 4) : FourSet := FourSet.none.set b true

/-- The island of a section as the devices stand (R6). -/
def State.island (s : State) (b : SecId) : FourSet := s.reach s.countedClosed (singleSection b)

/-- The lead sections of the islands, in ascending order. -/
def State.islandLeads (s : State) : List SecId := allFours.filter fun b => (s.island b).lowest == b

/-- The incomers that `cl` counts closed on the sections of x. -/
def State.closedIncomers (s : State) (cl : DevId → Bool) (x : FourSet) : List DevId :=
  allDevices.filter fun d => s.incomerOn x d && cl d

/-- The supply of the sections of x (R7). -/
def State.supplyOf (s : State) (x : FourSet) : Supply :=
  match s.closedIncomers s.countedClosed x with
  | [] => .unfed
  | [d] =>
    match s.incomerSource d with
    | some n => .fed n
    | none => .unfed
  | _ => .parallel

/-- The supply of a section's island. -/
def State.supply (s : State) (b : SecId) : Supply := s.supplyOf (s.island b)

/-- The supply of a transfer set: of the island that holds it, or of its islands together when its sections stand in
several (log 13). -/
def State.setSupply (s : State) (x : FourSet) : Supply := s.supplyOf (s.reach s.countedClosed x)

/-- The feeding source of a FED supply. -/
def Supply.source : Supply → Option SrcId
  | .fed n => some n
  | _ => none

def State.isAvailable (s : State) (n : SrcId) : Bool := (s.source n).state == .available

/-- The feeding source of a set FED by an AVAILABLE source. -/
def State.fedAvailable (s : State) (x : FourSet) : Option SrcId :=
  match s.setSupply x with
  | .fed f => if s.isAvailable f then some f else none
  | _ => none

/-- UNFED, or FED by a FAILED source: the island needs supply (R96). -/
def State.needsSupply (s : State) (x : FourSet) : Bool :=
  match s.setSupply x with
  | .unfed => true
  | .fed f => (s.source f).state == .failed
  | .parallel => false

/-- FED by a source that is not FAILED (R112). -/
def State.fedNotFailed (s : State) (x : FourSet) : Bool :=
  match s.setSupply x with
  | .fed f => (s.source f).state != .failed
  | _ => false

/-! ## Routes (R10) -/

/-- The tie position at the left border of a set. -/
def leftBorder (x : FourSet) : Option TieId :=
  let l := x.lowest
  if h : 0 < l.val then some ⟨l.val - 1, by omega⟩ else none

/-- The tie position at the right border of a set. -/
def rightBorder (x : FourSet) : Option TieId :=
  let r := x.highest
  if h : r.val < 3 then some ⟨r.val, by omega⟩ else none

/-- The device a route resolves to for a set, or none (R10). -/
def State.routeDeviceFor (s : State) (x : FourSet) : Route → Option DevId
  | .source n => s.incomerOf n
  | .tieLeft => (leftBorder x).bind s.tieAt
  | .tieRight => (rightBorder x).bind s.tieAt

/-- The neighbouring island of a set across the border of a TIE route (R6). -/
def State.neighbour (s : State) (x : FourSet) : Route → Option FourSet
  | .source _ => none
  | .tieLeft => (leftBorder x).map fun t => s.island ⟨t.val, by omega⟩
  | .tieRight => (rightBorder x).map fun t => s.island ⟨t.val + 1, by omega⟩

/-- The source a route supplies from: s for SOURCE s, the feeding source of the neighbouring island for a TIE route. -/
def State.routeSource (s : State) (x : FourSet) (r : Route) : Option SrcId :=
  match r with
  | .source n => some n
  | _ => (s.neighbour x r).bind fun i => (s.supplyOf i).source

/-! ## Load and spare (R12) -/

def sumList (xs : List Nat) : Nat := xs.foldl (· + ·) 0

/-- The load of the sections of x (R12): base loads and the demands of their feeders counted closed. -/
def State.setLoad (s : State) (x : FourSet) : Nat :=
  sumList ((FourSet.toList x).map fun b => (s.sectionEntry b).baseLoad) +
    sumList ((allDevices.filter fun d => s.feederOn x d && s.countedClosed d).map fun d => (s.entry d).demand)

/-- The set load after shedding (R110): without the feeders that carry the shed-on-transfer flag. -/
def State.shedLoad (s : State) (x : FourSet) : Nat :=
  sumList ((FourSet.toList x).map fun b => (s.sectionEntry b).baseLoad) +
    sumList ((allDevices.filter fun d => s.feederOn x d && s.countedClosed d && !(s.entry d).shed).map
      fun d => (s.entry d).demand)

/-- The load that the re-check of CLOSING asks of the route's source (R118): the set load after shedding and, of the feeders
whose OPEN has failed, the demands that it leaves out (R116; log 31). -/
def State.recheckLoad (s : State) (c : Context) : Nat :=
  s.shedLoad c.set +
    sumList ((allDevices.filter fun d =>
      s.feederOn c.set d && s.countedClosed d && (s.entry d).shed && c.failed.get d).map fun d => (s.entry d).demand)

/-- The leads of the islands FED by a source. -/
def State.fedIslands (s : State) (n : SrcId) : List SecId := s.islandLeads.filter fun b => s.supply b == .fed n

/-- Load in use of a source (R12): the loads of the islands FED by it. -/
def State.loadInUse (s : State) (n : SrcId) : Nat :=
  sumList ((s.fedIslands n).map fun b => s.setLoad (s.island b))

/-- Spare of a source: its capacity less its load in use, which may be negative (R12). -/
def State.spare (s : State) (n : SrcId) : Int := (s.sourceEntry n).capacity - (s.loadInUse n : Int)

/-- The spare of a source is at least a load. -/
def State.fits (s : State) (n : SrcId) (load : Nat) : Bool := decide ((load : Int) ≤ s.spare n)

/-! ## Sections -/

/-- A section is locked while its filtered lock level is high (R77). -/
def State.isLocked (s : State) (b : SecId) : Bool := (s.locks.get b).level

def State.anyLocked (s : State) (x : FourSet) : Bool := (FourSet.toList x).any s.isLocked

/-- The sections that record a tie position as their borrow tie (R9). -/
def State.borrowSet (s : State) (t : TieId) : FourSet := Four.ofFn fun b => (s.section b).borrow == some t

/-- The return set of a section: its borrow set if it records a borrow tie, its island otherwise (R8, R95). -/
def State.returnSet (s : State) (b : SecId) : FourSet :=
  match (s.section b).borrow with
  | some t => s.borrowSet t
  | none => s.island b

/-- The ACTIVE context whose set holds a section (R91). -/
def State.holder (s : State) (b : SecId) : Option CtxId :=
  allContexts.find? fun k => s.active k && (s.context k).set.get b

/-! ## Lines driven by the block -/

/-- RQn: high while a GENERATOR has run demand or its cool-down runs (R86). -/
def State.rq (s : State) (n : SrcId) : Bool :=
  (s.sourceEntry n).generator && ((s.source n).demand || (s.source n).cool.isSome)

/-- SYEN is high exactly while a context holds the selector (R128). -/
def State.syen (s : State) : Bool := s.sync.hold.isSome

/-- SYA1–SYA0: the running source while there is a holder, else low. -/
def State.sya (s : State) : Nat :=
  match s.sync.hold with
  | some h => h.running.val
  | none => 0

/-- SYB1–SYB0: the target source while there is a holder, else low. -/
def State.syb (s : State) : Nat :=
  match s.sync.hold with
  | some h => h.target.val
  | none => 0

/-- ATN# as a level: low (false) while any attention bit is set (R172). -/
def State.atn (s : State) : Bool := s.recorder.attention == 0

def State.pwait (s : State) : Bool := s.pPort.access.isSome
def State.fwait (s : State) : Bool := s.fPort.access.isSome

/-- The holder has leave: the settle timer has expired and the filtered SYNC level is high (R131). -/
def SyncHold.leave (h : SyncHold) : Bool := h.settle.isNone && h.filter.level

end Sys2Proof.Machine
end

