-- ==== Sys2Proof/Machine/Flags.lean ====
section
/-! DEFINITION. The current image of every report word (12.5, 12.6, R179): the status words, computed from the state, and
the frame words, kept by the Incident Recorder. -/

namespace Sys2Proof.Machine

def CommitStatus.code : CommitStatus → Nat
  | .none => 0
  | .pending => 1
  | .applied => 2
  | .rejected => 3

def Kind.code : Kind → Nat
  | .supply => 0
  | .return => 1
  | .manual => 2

def Transition.code : Transition → Nat
  | .opn => 0
  | .closed => 1

def SectionState.code : SectionState → Nat
  | .disarmed => 0
  | .armed => 1
  | .queued => 2
  | .transferring => 3
  | .held => 4
  | .lockout => 5

def Supply.code : Supply → Nat
  | .unfed => 0
  | .fed _ => 1
  | .parallel => 2

def SourceState.code : SourceState → Nat
  | .failed => 0
  | .proving => 1
  | .available => 2
  | .dip => 3

def Owner.code : Owner → Nat
  | .processor => 0
  | .context k => k.val + 1
  | .emergency => 4

def ContextState.code : ContextState → Nat
  | .free => 0
  | .active => 1
  | .ending => 2

def Phase.code : Phase → Nat
  | .select => 0
  | .awaitSource => 1
  | .opening => 2
  | .deadWait => 3
  | .closing => 4
  | .restoring => 5
  | .syncWait => 6
  | .closingParallel => 7
  | .openingOld => 8
  | .ending => 9

def Claim.code : Claim → Nat
  | .none => 0
  | .waiting => 1
  | .held => 2

/-- The code of an index or of none. -/
def codeOr (noneCode : Nat) {n : Nat} : Option (Fin n) → Nat
  | some i => i.val
  | none => noneCode

/-- A set of sections in four bits. -/
def fourBits (x : FourSet) : Nat := bit x.e0 + 2 * bit x.e1 + 4 * bit x.e2 + 8 * bit x.e3

/-- A set of devices in sixteen bits, bit d for Dd. -/
def deviceBits (x : DevSet) : Nat :=
  fourBits x.rows.e0 + 16 * fourBits x.rows.e1 + 256 * fourBits x.rows.e2 + 4096 * fourBits x.rows.e3

def State.partWord (s : State) : Word :=
  BitVec.ofNat 16 (bit s.guarding + 2 * bit s.latch.isSet + 4 * bit s.latch.filter.level + 16 * s.store.status.code)

def State.rejectWord (s : State) : Word :=
  match s.store.reject with
  | some off => BitVec.ofNat 16 off
  | none => 0xFFFF

def State.queueWord (s : State) (i : Nat) : Word :=
  match s.queue[i]? with
  | none => 0
  | some e =>
    BitVec.ofNat 16 (1 + 2 * e.lead.val + 16 * fourBits e.set + 256 * e.kind.code + 1024 * e.transition.code +
      4096 * routeCode e.target)

/-- The section status word (R91); while UNCONFIGURED no island is derived and it shows UNFED (R6, R107). -/
def State.sectionWord (s : State) (b : SecId) : Word :=
  let x := s.section b
  let holder := if x.state = .transferring then s.holder b else none
  let supply := s.supply b
  BitVec.ofNat 16 (x.state.code + 8 * supply.code + 32 * codeOr 7 supply.source + 256 * bit (s.isLocked b) +
    512 * codeOr 7 holder + 4096 * codeOr 7 x.borrow)

def State.withheldWord (s : State) (b : SecId) : Word := BitVec.ofNat 16 (deviceBits (s.section b).withheld)

def State.sourceWord (s : State) (n : SrcId) : Word :=
  let x := s.source n
  BitVec.ofNat 16 (x.state.code + 4 * bit x.health.level + 8 * bit (s.rq n) + 16 * bit x.cool.isSome)

def State.loadWord (s : State) (n : SrcId) : Word := BitVec.ofNat 16 (s.loadInUse n)

/-- The device status word (R38); zero for an entry without a record. -/
def State.deviceWord (s : State) (d : DevId) : Word :=
  if s.hasRecord d then
    let x := s.device d
    BitVec.ofNat 16 (x.owner.code + 8 * x.observed.code + 32 * bit x.available + 64 * bit x.pending +
      128 * bit (x.op != .idle) + 256 * bit x.overrun + 512 * bit x.fail + 1024 * bit x.trip +
      2048 * bit x.deferred.isSome + 4096 * bit (s.queued d).isSome + 32768)
  else 0

/-- The first context status word (R108); zero for a FREE context (R179). -/
def State.contextWord (s : State) (k : CtxId) : Word :=
  let c := s.context k
  match c.state with
  | .free => 0
  | _ => BitVec.ofNat 16 (c.state.code + 4 * c.kind.code + 16 * c.transition.code + 32 * c.phase.code + 512 * c.lead.val)

/-- The second context status word (R108). -/
def State.contextWord2 (s : State) (k : CtxId) : Word :=
  let c := s.context k
  match c.state with
  | .free => 0
  | _ => BitVec.ofNat 16 (routeCode c.target + 16 * c.claim.code + 256 * fourBits c.set)

/-- The index that a status offset names in a table of n words from `base` on. -/
def indexAt (base n off : Nat) : Option (Fin n) :=
  if h : base ≤ off ∧ off - base < n then some ⟨off - base, h.2⟩ else none

/-- The image of the context status words from 230h on, two for each context. -/
def State.contextImage (s : State) (off : Nat) : Word :=
  match indexAt 0x230 6 off with
  | some i =>
    let k : CtxId := ⟨i.val / 2, by omega⟩
    if i.val % 2 = 0 then s.contextWord k else s.contextWord2 k
  | none => 0

/-- The images of the section and source status words from 210h on. -/
def State.plantImage (s : State) (off : Nat) : Word :=
  match indexAt 0x210 4 off, indexAt 0x214 4 off, indexAt 0x218 4 off, indexAt 0x21C 4 off with
  | some b, _, _, _ => s.sectionWord b
  | _, some b, _, _ => s.withheldWord b
  | _, _, some n, _ => s.sourceWord n
  | _, _, _, some n => s.loadWord n
  | _, _, _, _ => 0

/-- The current image of a report word by its guard-page offset; offsets with no report assigned are zero (R22, R179). -/
def State.reportImage (s : State) (off : Nat) : Word :=
  if 0x400 ≤ off then s.recorder.log.read (off - 0x400)
  else if 0x230 ≤ off then s.contextImage off
  else if 0x220 ≤ off then
    match indexAt 0x220 16 off with
    | some d => s.deviceWord d
    | none => 0
  else if 0x210 ≤ off then s.plantImage off
  else if off = 0x200 then s.partWord
  else if off = 0x201 then s.rejectWord
  else if off = 0x202 then s.recorder.attention.setWidth 16
  else if off = 0x203 then s.recorder.index.setWidth 16
  else
    match indexAt 0x204 4 off with
    | some i => s.queueWord i.val
    | none => 0

end Sys2Proof.Machine
end

