-- ==== Sys2Proof/Machine/Ops.lean ====
section
/-! DEFINITION. The named operations over the state that the blocks share: the dirty set, the setters of the tables, the
injection queue, the ports and the image, and the raising of an incident frame. -/

namespace Sys2Proof.Machine

/-! ## The dirty set (R34) -/

/-- Put an offset in its place in an ascending list, once. -/
def insertOffset (off : Nat) : List Nat → List Nat
  | [] => [off]
  | x :: xs => if off < x then off :: x :: xs else if off = x then x :: xs else x :: insertOffset off xs

def State.markDirty (s : State) (off : Nat) : State := { s with dirty := insertOffset off s.dirty }

def State.markAll (s : State) (offs : List Nat) : State := offs.foldl State.markDirty s

/-- Mark every status word whose image is not what it was in `before` (R34: a block marks a word dirty at the event that
changes its image; log 9). -/
def State.markChanged (s before : State) : State :=
  s.markAll (statusOffsets.filter fun off => before.reportImage off != s.reportImage off)

def deviceStatusOffset (d : DevId) : Nat := 0x220 + d.val
def sourceStatusOffset (n : SrcId) : Nat := 0x218 + n.val
def sectionStatusOffset (b : SecId) : Nat := 0x210 + b.val
def contextStatusOffsets (k : CtxId) : List Nat := [0x230 + 2 * k.val, 0x231 + 2 * k.val]
def queueOffsets : List Nat := [0x204, 0x205, 0x206, 0x207]
def slotOffsets (i : Slot) : List Nat := (List.range 8).map (0x400 + 8 * i.toNat + ·)
/-- The 256 frame words (R34). -/
def frameOffsets : List Nat := (List.range 256).map (0x400 + ·)

/-! ## Setters -/

def State.setDevice (s : State) (d : DevId) (x : Device) : State := { s with devices := s.devices.set d x }
def State.setContext (s : State) (k : CtxId) (c : Context) : State := { s with contexts := s.contexts.set k c }
def State.setSection (s : State) (b : SecId) (x : Section) : State := { s with sections := s.sections.set b x }
def State.setSource (s : State) (n : SrcId) (x : Source) : State := { s with sources := s.sources.set n x }

/-- Change a context's record. -/
def State.updContext (s : State) (k : CtxId) (f : Context → Context) : State := s.setContext k (f (s.context k))

/-- Change a device's record. -/
def State.updDevice (s : State) (d : DevId) (f : Device → Device) : State := s.setDevice d (f (s.device d))

/-- Move a section to a state; its status word is marked at a change (R91). -/
def State.setSectionState (s : State) (b : SecId) (st : SectionState) : State :=
  if (s.section b).state = st then s
  else (s.setSection b { s.section b with state := st }).markDirty (sectionStatusOffset b)

/-- Move the sections of a list to a state. -/
def State.setSectionStates (s : State) (bs : List SecId) (st : SectionState) : State :=
  bs.foldl (fun s b => s.setSectionState b st) s

/-- Replace the request queue; each view word whose content changes is marked (R99; in this reading R163 too, log 9). -/
def State.setQueue (s : State) (q : List Request) : State :=
  let t := { s with queue := q }
  t.markAll (queueOffsets.filter fun off => s.reportImage off != t.reportImage off)

/-- Move a device to an owner; a change marks its status word (R49). -/
def State.setOwner (s : State) (d : DevId) (o : Owner) : State :=
  if (s.device d).owner = o then s
  else (s.updDevice d fun x => { x with owner := o }).markDirty (deviceStatusOffset d)

/-- Set the commit status and the reject offset; a change of either marks the part word and the reject-offset word
(R14). -/
def State.setCommit (s : State) (status : CommitStatus) (reject : Option Nat) : State :=
  if s.store.status = status ∧ s.store.reject = reject then s
  else { s with store := { s.store with status := status, reject := reject } }.markAll [0x200, 0x201]

/-- The owner that stands for the one who queued an injection. -/
def Enqueuer.owner : Enqueuer → Owner
  | .context k => .context k
  | .emergency => .emergency

/-! ## Time (R176, R178) -/

/-- The ms count at which a timer of a duration started now expires. -/
def State.after (s : State) (ms : Nat) : Ms := s.ms + BitVec.ofNat 32 ms

/-- A timer expires now. -/
def State.due (s : State) (t : Option Ms) : Bool := t == some s.ms

/-! ## The injection queue (R30, R31) -/

/-- The injection queue with an entry joined: at the tail, or in the place of the entry its device has (R30). -/
def joinInjection (e : Injection) (q : List Injection) : List Injection :=
  if q.any (fun x => x.device == e.device) then q.map fun x => if x.device == e.device then e else x else q ++ [e]

/-- The entry of a command for a device: its tag is one more than the tag of the record (R30). -/
def State.injectionFor (s : State) (d : DevId) (code : Cmd) (owner : Enqueuer) : Injection :=
  { device := d, code := code, tag := (s.device d).tag + 1, owner := owner }

/-- Queue a command for a device of the working table (R30). -/
def State.enqueue (s : State) (d : DevId) (code : Cmd) (owner : Enqueuer) : State :=
  if s.hasRecord d then
    ({ s with injections := joinInjection (s.injectionFor d code owner) s.injections }).markDirty (deviceStatusOffset d)
  else s

/-- Take the entries that `p` picks out of the injection queue, each marking its device's status word (R30, R31). -/
def State.dropInjections (s : State) (p : Injection → Bool) : State :=
  ({ s with injections := s.injections.filter fun e => !p e }).markAll
    ((s.injections.filter p).map fun (e : Injection) => deviceStatusOffset e.device)

/-- Take a device's entry out of the injection queue. -/
def State.dropInjection (s : State) (d : DevId) : State := s.dropInjections fun e => e.device == d

/-- Cancel the CLOSE entries that a context queued (R31, R51). -/
def State.cancelCloses (s : State) (k : CtxId) : State :=
  s.dropInjections fun e => e.code == .cls && e.owner == .context k

/-! ## The image (R24, R25, R34) -/

def State.readImage (s : State) (a : Word) : Word := s.image.read a.toNat

def State.storeWord (s : State) (a : Word) (w : Word) : State := { s with image := s.image.write a.toNat w }

/-- Store a report word's current image and take it out of the dirty set (R28, R34). -/
def State.storeReport (s : State) (off : Nat) : State :=
  { s.storeWord (guardAddress s.store.page off) (s.reportImage off) with dirty := s.dirty.filter (· != off) }

/-! ## Incident frames (R168, R169, 12.6) -/

/-- The classes of 11.1. -/
inductive IncidentClass where
  | sourceDip
  | sourceLoss
  | sourceReturn
  | deviceNoResponse
  | protectionTrip
  | writeRefused
  | commandOverrun
  | syncTimeout
  | emergency
  | configRejected
  | transferEnd
  deriving DecidableEq, Repr

def IncidentClass.code : IncidentClass → Nat
  | .sourceDip => 0
  | .sourceLoss => 1
  | .sourceReturn => 2
  | .deviceNoResponse => 3
  | .protectionTrip => 4
  | .writeRefused => 5
  | .commandOverrun => 6
  | .syncTimeout => 7
  | .emergency => 8
  | .configRejected => 9
  | .transferEnd => 10

/-- The detail codes of WRITE_REFUSED (11.1); the first five are also the reasons of R72 and R73. -/
inductive Detail where
  | parallel
  | locked
  | emergency
  | malformed
  | deferred
  | deferredRefused
  | fieldWrite
  | positionWrite
  | armRefused
  | requestRefused
  | injectionRefused
  deriving DecidableEq, Repr

def Detail.code : Detail → Nat
  | .parallel => 1
  | .locked => 2
  | .emergency => 3
  | .malformed => 4
  | .deferred => 5
  | .deferredRefused => 6
  | .fieldWrite => 7
  | .positionWrite => 8
  | .armRefused => 9
  | .requestRefused => 10
  | .injectionRefused => 11

def Result.code : Result → Nat
  | .done => 0
  | .doneWithheld => 1
  | .recovered => 2
  | .noRoute => 3
  | .deviceFailed => 4
  | .parallelLimit => 5
  | .syncTimeout => 6
  | .operatorOpen => 7
  | .islandSplit => 8
  | .locked => 9
  | .disarmed => 10
  | .tripped => 11
  | .emergency => 12
  | .returnCancelled => 13
  | .supplied => 14

/-- What a raising block gives the Incident Recorder (R169). -/
structure Incident where
  cls : IncidentClass
  detail : Option Detail := none
  sec : Option SecId := none
  dev : Option DevId := none
  src : Option SrcId := none
  ctx : Option CtxId := none
  cause : Option Slot := none
  w5 : Word := 0
  w6 : Word := 0
  w7 : Word := 0
  deriving DecidableEq, Repr

/-- The eight words of a frame raised at an ms count (12.6). -/
def Incident.words (i : Incident) (ms : Ms) : List Word :=
  [BitVec.ofNat 16 (i.cls.code + 16 * (match i.detail with | some d => d.code | none => 0)),
   BitVec.ofNat 16 (codeOr 7 i.sec + 8 * codeOr 31 i.dev + 256 * codeOr 7 i.src + 2048 * codeOr 7 i.ctx),
   BitVec.ofNat 16 (match i.cause with | some c => c.toNat | none => 63),
   ms.setWidth 16, (ms >>> 16).setWidth 16, i.w5, i.w6, i.w7]

/-- Make a context FREE: its record is cleared and its status words are marked (R126). -/
def State.freeContext (s : State) (k : CtxId) : State :=
  (s.setContext k Context.blank).markAll (contextStatusOffsets k)

/-- The context that waits on a slot (R173). -/
def State.waitingOn (s : State) (i : Slot) : Option CtxId :=
  allContexts.find? fun k => s.recorder.marks.get k == some i

def State.clearMark (s : State) (k : CtxId) : State :=
  { s with recorder := { s.recorder with marks := s.recorder.marks.set k none } }

/-- A slot about to be reused frees the context that waits on it (R173, R126); what the freeing allows is left to the
end of the event. -/
def State.reuseSlot (s : State) (i : Slot) : State :=
  match s.waitingOn i with
  | some k => { (s.freeContext k).clearMark k with freed := s.freed.set k true }
  | none => s

/-- Whether a class sets its attention bit (R171): every class does while UNCONFIGURED. -/
def State.attends (s : State) (c : IncidentClass) : Bool :=
  match s.store.working with
  | some b => b.responses.attention.getLsbD c.code
  | none => true

/-- Raise an incident (R168, R172): the slot is the one the write index names, so a caller that needs it reads
`s.recorder.index` before. -/
def State.raise (s : State) (i : Incident) : State :=
  let slot := s.recorder.index
  let s := s.reuseSlot slot
  let att := if s.attends i.cls then s.recorder.attention ||| BitVec.ofNat 11 (2 ^ i.cls.code) else s.recorder.attention
  let s := { s with recorder :=
    { s.recorder with log := s.recorder.log.writeAll (8 * slot.toNat) (i.words s.ms), index := slot + 1,
                      attention := att } }
  s.markAll (0x203 :: slotOffsets slot)

/-- Origin codes of a WRITE_REFUSED frame (12.6), with the reason in bits 7 to 4. -/
def originWord (origin : Nat) (reason : Option Detail) : Word :=
  BitVec.ofNat 16 (origin + 16 * (match reason with | some r => r.code | none => 0))

def originP : Nat := 0
def originF : Nat := 1
def originW : Nat := 2

/-- The frame of an incident about a device: its section, source, owner context and that context's cause (R41). -/
def State.deviceIncident (s : State) (cls : IncidentClass) (d : DevId) : Incident :=
  { cls := cls, sec := s.frameSection d, dev := some d, src := s.incomerSource d, ctx := s.ownerContext d,
    cause := (s.ownerContext d).bind fun k => (s.context k).cause }

/-! ## Sync selector release (R133) -/

/-- Release the holder: its claim becomes NONE and everything that belongs to the hold goes. -/
def State.releaseSync (s : State) : State :=
  match s.sync.hold with
  | some h => { s.updContext h.context (fun c => { c with claim := .none }) with sync := { s.sync with hold := none } }
  | none => s

/-- Withdraw a context's claim, whatever it is (R129). -/
def State.withdrawClaim (s : State) (k : CtxId) : State :=
  match (s.context k).claim with
  | .none => s
  | .waiting =>
    { s.updContext k (fun c => { c with claim := .none }) with
      sync := { s.sync with claims := s.sync.claims.filter (· != k), due := s.sync.due.filter (· != k) } }
  | .held => s.releaseSync.updContext k fun c => { c with claim := .none }

end Sys2Proof.Machine
end

