-- ==== Sys2Proof/Machine/Guard.lean ====
section
/-! DEFINITION. The Write Guard (chapter 4): the judgement of a command at its grant. It keeps no state (R58). -/

namespace Sys2Proof.Machine

/-- How a command is judged (R58): as a processor write (a deferred word at release too), or as an injection with its
owner at enqueue. -/
inductive JudgedAs where
  | processorWrite
  | injection (owner : Enqueuer)
  deriving DecidableEq, Repr

/-- The outcome of a judgement (R60); `exempt` says that the synchronised exemption let the command through (R68). -/
inductive Verdict where
  | pass (exempt : Bool)
  | defer
  | refuse (reason : Detail)
  deriving DecidableEq, Repr

/-- Every device counted closed as it stands, and d as well (R67). -/
def State.closedWith (s : State) (d : DevId) (x : DevId) : Bool := x == d || s.countedClosed x

/-- The prospective island of a device (R6): the island that would hold its sections with d counted closed. -/
def State.prospective (s : State) (d : DevId) : FourSet :=
  s.reach (s.closedWith d) (Four.ofFn fun b => (s.kindOf d).sections.contains b)

/-- The counted-closed incomers of the prospective island, d counted closed (R67). -/
def State.prospectiveIncomers (s : State) (d : DevId) : List DevId :=
  s.closedIncomers (s.closedWith d) (s.prospective d)

/-- The island of d would be paralleled (R67). -/
def State.wouldParallel (s : State) (d : DevId) : Bool := decide (2 ≤ (s.prospectiveIncomers d).length)

/-- The incomers are the two of the selected pair (R68). -/
def State.pairMatches (s : State) (d : DevId) (a b : SrcId) : Bool :=
  match (s.prospectiveIncomers d).map s.incomerSource with
  | [some x, some y] => (x == a && y == b) || (x == b && y == a)
  | _ => false

/-- The synchronised exemption (R68). -/
def State.exempt (s : State) (as : JudgedAs) (d : DevId) : Bool :=
  match as, s.sync.hold with
  | .injection (.context k), some h =>
    h.context == k && h.leave && (s.context k).routeDevice == some d && s.owns k d && s.pairMatches d h.running h.target
  | _, _ => false

/-- A section that the device connects to is locked (R66). -/
def State.deviceLocked (s : State) (d : DevId) : Bool := (s.kindOf d).sections.any s.isLocked

/-- Steps 4 to 6 of R60, for a CLOSE. -/
def State.judgeClose (s : State) (as : JudgedAs) (d : DevId) : Verdict :=
  if s.latch.isSet && (s.entry d).emergencyOpen then .refuse .emergency
  else if s.deviceLocked d then .refuse .locked
  else if s.wouldParallel d then (if s.exempt as d then .pass true else .refuse .parallel)
  else .pass false

/-- Step 3 of R60: a CLOSE to a device owned by a context (R63, R64). -/
def State.judgeOwner (s : State) (as : JudgedAs) (d : DevId) : Option Verdict :=
  match as, (s.device d).owner with
  | .processorWrite, .context _ => some .defer
  | .injection e, .context k => if e = .context k then none else some (.refuse .deferred)
  | _, _ => none

/-- The judgement of a command for device d (R60); `none` is a malformed code (R61). -/
def State.judge (s : State) (as : JudgedAs) (d : DevId) : Option Cmd → Verdict
  | none => .refuse .malformed
  | some .opn => .pass false
  | some .cls =>
    match s.judgeOwner as d with
    | some v => v
    | none => s.judgeClose as d

/-- The frame of a refused or deferred write to a command word (R70, R71): the owning context and its cause, the word
address, the data offered, origin P. -/
def State.refusedWrite (s : State) (d : DevId) (detail : Detail) (addr data : Word) : Incident :=
  { s.deviceIncident .writeRefused d with
    detail := some detail, w5 := addr, w6 := data, w7 := originWord originP none }

/-- The cause slot of a context that is still ACTIVE (R72). -/
def State.activeCause (s : State) (k : CtxId) : Option Slot := if s.active k then (s.context k).cause else none

/-- The frame of a refused injection (R72). -/
def State.refusedInjection (s : State) (e : Injection) (reason : Detail) : Incident :=
  let k := match e.owner with
    | .context k => some k
    | .emergency => none
  { cls := .writeRefused, detail := some .injectionRefused, sec := s.frameSection e.device, dev := some e.device,
    src := s.incomerSource e.device, ctx := k, cause := k.bind s.activeCause, w5 := (s.entry e.device).command,
    w6 := commandWord e.code 1 e.tag, w7 := originWord originW (some reason) }

/-- The frame of a deferred word refused at release (R54, R73): the releasing context and its cause slot. Its section and
source fields, which R54 and R73 do not name, are filled in as R70 fills them in (the model's choice, log 28). -/
def State.refusedDeferred (s : State) (k : CtxId) (d : DevId) (w : Word) (reason : Detail) : Incident :=
  { cls := .writeRefused, detail := some .deferredRefused, sec := s.frameSection d, dev := some d,
    src := s.incomerSource d, ctx := some k, cause := (s.context k).cause, w5 := (s.entry d).command, w6 := w,
    w7 := originWord originP (some reason) }

end Sys2Proof.Machine
end

