-- ==== Sys2Proof/Machine/Demand.lean ====
section
/-! DEFINITION. Run demand and cool-down of the generators (R84 to R86). -/

namespace Sys2Proof.Machine

/-- A context is in AWAIT_SOURCE with Sn awaited (R84). -/
def State.awaits (s : State) (n : SrcId) : Bool :=
  allContexts.any fun k => s.active k && (s.context k).awaited == some n

/-- The incomer of Sn is observed CLOSED (R84). -/
def State.incomerClosed (s : State) (n : SrcId) : Bool :=
  match s.incomerOf n with
  | some d => (s.device d).observed == .closed
  | none => false

/-- Run demand of Sn as the board stands (R84). -/
def State.runDemand (s : State) (n : SrcId) : Bool :=
  (s.sourceEntry n).generator && (s.awaits n || s.incomerClosed n)

/-- A source once its run demand has been worked out (R85): a fall of demand starts the cool-down, demand stops it, and
a UTILITY has neither. -/
def State.demanded (s : State) (n : SrcId) : Source :=
  let x := s.source n
  if !(s.sourceEntry n).generator then { x with demand := false, cool := none }
  else if s.runDemand n then { x with demand := true, cool := none }
  else if x.demand then { x with demand := false, cool := some (s.after (s.sourceEntry n).coolDown) }
  else x

/-- Work out the run demand of a source; its status word is marked at a change (R85). -/
def State.workOutDemand (s : State) (n : SrcId) : State :=
  if s.demanded n = s.source n then s
  else (s.setSource n (s.demanded n)).markDirty (sourceStatusOffset n)

/-- Work out every source's run demand, at an event that can change it (R84). -/
def State.workOutDemands (s : State) : State := allFours.foldl State.workOutDemand s

end Sys2Proof.Machine
end

