-- ==== Sys2Proof/Machine/Sections.lean ====
section
/-! DEFINITION. The Section Controller's evaluation of islands and its request queue (R95 to R100). Context assignment
is tried at each joining (R99, R101): the functions take it as `asg`, and Assign.lean ties the knot. -/

namespace Sys2Proof.Machine

/-! ## Placing an entry (R99) -/

/-- The entry's sections become QUEUED. -/
def State.queueSections (s : State) (e : Request) : State := s.setSectionStates (FourSet.toList e.set) .queued

def Request.isReturn (e : Request) : Bool := e.kind == .return

/-- The queue after a new SUPPLY: it takes the place of the earliest RETURN it overlaps, the others leave; with none it
joins at the tail. -/
def joinSupply (e : Request) (q : List Request) : List Request :=
  let meets := fun (x : Request) => x.isReturn && x.set.overlaps e.set
  if q.any meets then
    q.takeWhile (fun x => !meets x) ++ [e] ++ (q.dropWhile fun x => !meets x).filter fun x => !meets x
  else q ++ [e]

/-- The sections of the RETURNs that a new SUPPLY removes, outside its set. -/
def leftOut (e : Request) (q : List Request) : List SecId :=
  allFours.filter fun b => !e.set.get b && q.any fun x => x.isReturn && x.set.overlaps e.set && x.set.get b

/-- Place a SUPPLY; the sections left out become ARMED and are evaluated by `ev`. -/
def State.placeSupply (asg : State → State) (ev : List SecId → State → State) (e : Request) (s : State) : State :=
  let out := leftOut e s.queue
  let s := (s.setQueue (joinSupply e s.queue)).queueSections e
  asg (ev out (s.setSectionStates out .armed))

/-- Place a RETURN: dropped when it overlaps a queued entry, else at the tail. -/
def State.placeReturn (asg : State → State) (e : Request) (s : State) : State :=
  if s.queue.any (fun x => x.set.overlaps e.set) then s
  else asg ((s.setQueue (s.queue ++ [e])).queueSections e)

/-- Place a MANUAL at the tail. -/
def State.placeManual (asg : State → State) (e : Request) (s : State) : State :=
  asg ((s.setQueue (s.queue ++ [e])).queueSections e)

/-! ## Return evaluation (R97) -/

/-- The routes ranked before SOURCE f: all of them when f is absent (R11). -/
def rankedBefore (routes : List Route) (f : SrcId) : List Route := routes.takeWhile (· != .source f)

/-- A source qualifies as the target of a return of the set (R97). -/
def State.qualifies (s : State) (x : FourSet) (c : SrcId) : Bool :=
  s.isAvailable c &&
    match s.incomerOf c with
    | some d =>
      s.connects d x && (s.device d).owner == .processor && s.usableDevice d && !s.countedClosed d &&
        s.fits c (s.setLoad x)
    | none => false

/-- A set may be evaluated for return: its lead has a policy, and every section is ARMED and unlocked (R97). -/
def State.returnable (s : State) (x : FourSet) (lead : SecId) : Bool :=
  (s.sectionEntry lead).policy.isSome && (FourSet.toList x).all fun b => (s.section b).state == .armed && !s.isLocked b

/-- The first source ranked before f that qualifies. -/
def State.returnTarget (s : State) (x : FourSet) (lead : SecId) (f : SrcId) : Option Route :=
  (rankedBefore (s.sectionEntry lead).routes f).find? fun r =>
    match r with
    | .source c => s.qualifies x c
    | _ => false

/-- Evaluate one return set of an island FED by f. -/
def State.evaluateReturnSet (asg : State → State) (f : SrcId) (cause : Option Slot) (s : State) (x : FourSet) : State :=
  let lead := x.lowest
  if s.returnable x lead then
    match s.returnTarget x lead f, (s.sectionEntry lead).policy with
    | some r, some tr =>
      s.placeReturn asg { lead := lead, set := x, kind := .return, transition := tr, target := some r, cause := cause,
                          offered := 0 }
    | _, _ => s
  else s

/-- The return sets of an island in ascending order of lead: the island itself when its lead records no borrow tie, and
each borrow set it contains. -/
def State.returnSets (s : State) (island : FourSet) : List FourSet :=
  (FourSet.toList island).filterMap fun b =>
    match (s.section b).borrow with
    | none => if island.lowest = b then some island else none
    | some t =>
      let x := s.borrowSet t
      if x.within island && x.lowest == b then some x else none

/-- Return evaluation of the island of a section (R97), made while SOURCE_RETURN holds RETURN and the island is FED by an
AVAILABLE source. -/
def State.evaluateReturn (asg : State → State) (b : SecId) (cause : Option Slot) (s : State) : State :=
  let island := s.island b
  match s.fedAvailable island with
  | some f =>
    if s.board.responses.returnReturn then (s.returnSets island).foldl (State.evaluateReturnSet asg f cause) s else s
  | none => s

/-! ## Supply evaluation (R96, R98) -/

/-- A section is QUEUED under an entry of a kind that `p` picks. -/
def State.queuedUnder (s : State) (b : SecId) (p : Request → Bool) : Bool :=
  (s.section b).state == .queued && s.queue.any fun e => e.set.get b && p e

/-- A section is left to a request or a context it already has. -/
def State.inHand (s : State) (b : SecId) : Bool :=
  (s.section b).state == .transferring || s.queuedUnder b fun e => !e.isReturn

/-- A section may enter a SUPPLY: ARMED, or QUEUED under a RETURN, and not locked. -/
def State.suppliable (s : State) (b : SecId) : Bool :=
  ((s.section b).state == .armed || s.queuedUnder b Request.isReturn) && !s.isLocked b

/-- Each ARMED section of the list becomes HELD. -/
def State.holdArmed (s : State) (bs : List SecId) : State :=
  s.setSectionStates (bs.filter fun b => (s.section b).state == .armed) .held

/-- The leads of the islands that hold a section of the list, in ascending order: each island once (R98). -/
def State.leadsOf (s : State) (bs : List SecId) : List SecId :=
  s.islandLeads.filter fun l => bs.any fun b => (s.island l).get b

/-- Evaluate the islands that hold the sections of a list (R96, R97), each once in ascending order of lead. The first
argument bounds how often a new SUPPLY may leave sections to be evaluated inside; there are four islands at most. What
such an evaluation queues has cause none (the model's choice, log 29). -/
def evaluateN (asg : State → State) : Nat → Option Slot → List SecId → State → State
  | 0, _, _, s => s
  | n + 1, cause, bs, s =>
    (s.leadsOf bs).foldl (fun s b =>
      let island := s.island b
      let members := FourSet.toList island
      if s.needsSupply island then
        if members.any s.inHand then s
        else if members.all s.suppliable then
          s.placeSupply asg (evaluateN asg n none)
            { lead := island.lowest, set := island, kind := .supply, transition := .opn, target := none, cause := cause,
              offered := 0 }
        else s.holdArmed members
      else s.evaluateReturn asg b cause) s

/-- Evaluate the islands that hold the sections of a list (R98). -/
def State.evaluate (asg : State → State) (cause : Option Slot) (bs : List SecId) (s : State) : State :=
  evaluateN asg 5 cause bs s

/-! ## Leaving the queue (R100) -/

def State.removeRequest (s : State) (e : Request) : State := s.setQueue (s.queue.filter (· != e))

/-- The entry leaves, its sections become ARMED and their islands are evaluated. -/
def State.withdrawArmed (asg : State → State) (e : Request) (s : State) : State :=
  ((s.removeRequest e).setSectionStates (FourSet.toList e.set) .armed).evaluate asg none (FourSet.toList e.set)

/-- The entry leaves and its sections become HELD. -/
def State.withdrawHeld (e : Request) (s : State) : State :=
  (s.removeRequest e).setSectionStates (FourSet.toList e.set) .held

/-- The entry whose set holds a section. -/
def State.requestOf (s : State) (b : SecId) : Option Request := s.queue.find? fun e => e.set.get b

/-! ## Manual requests (R95) -/

/-- The route of a manual request will not do for its set (R95): no device, or one that does not connect to the set, is
not the processor's, is not usable or is counted closed, or a supplying source that is not AVAILABLE. -/
def State.manualRouteBad (s : State) (x : FourSet) : Option Route → Bool
  | none => true
  | some r =>
    match s.routeDeviceFor x r with
    | none => true
    | some d =>
      !s.connects d x || (s.device d).owner != .processor || !s.usableDevice d || s.countedClosed d ||
        match s.routeSource x r with
        | some n => !s.isAvailable n
        | none => true

/-- The CLOSED transition of a manual request will not do (R95): not a SOURCE route, or the set is not FED by an
AVAILABLE source other than the route's. -/
def State.manualClosedBad (s : State) (x : FourSet) (r : Option Route) : Bool :=
  match r with
  | some (.source n) =>
    match s.fedAvailable x with
    | some f => f == n
    | none => true
  | _ => true

/-- A manual request on a set is refused whatever the states of its sections (R95; R102 for a queued MANUAL, whose sections
the first step of R102 has judged: the model's choice, log 38). -/
def State.manualBad (s : State) (x : FourSet) (tr : Transition) (r : Option Route) : Bool :=
  !s.guarding || s.latch.isSet || s.anyLocked x || s.manualRouteBad x r || (tr == .closed && s.manualClosedBad x r)

/-- The frame of a refused manual request, or of a MANUAL dropped at taking (R95, R102). The fields that those rules do not
name are none (the model's choice, log 36). -/
def requestRefused (b : SecId) (addr data : Word) : Incident :=
  { cls := .writeRefused, detail := some .requestRefused, sec := some b, w5 := addr, w6 := data,
    w7 := originWord originP none }

/-- The address of a section's manual request word. -/
def State.manualAddress (s : State) (b : SecId) : Word := guardAddress s.store.page (0x104 + b.val)

end Sys2Proof.Machine
end

