-- ==== Sys2Proof/Machine/Transfer.lean ====
section
/-! DEFINITION. The Transfer Engine: the phases of a context (chapters 7 and 8) and what a disturbance does to it (chapter
9). `asg` is context assignment (R101), which the ending of a context may try; Assign.lean ties the knot. -/

namespace Sys2Proof.Machine

/-! ## The context's view of the board -/

/-- A route is usable for the context (R110), its source with spare for `load`; with `ignoreState` but for the state of a
SOURCE route's source (R111). -/
def State.usableFor (s : State) (k : CtxId) (ignoreState : Bool) (load : Nat) (r : Route) : Bool :=
  let x := (s.context k).set
  match s.routeDeviceFor x r with
  | none => false
  | some d =>
    s.owns k d && s.usableDevice d && !s.countedClosed d &&
      match r with
      | .source n => (ignoreState || s.isAvailable n) && s.fits n load
      | _ =>
        match s.neighbour x r with
        | none => false
        | some island =>
          match s.fedAvailable island with
          | none => false
          | some f =>
            ((FourSet.toList island).all fun b =>
                (s.section b).state != .queued && (s.section b).state != .transferring) &&
              s.fits f load

/-- A route is usable in SELECT (R110, R111): its source carries the set load after shedding. -/
def State.usable (s : State) (k : CtxId) (ignoreState : Bool) (r : Route) : Bool :=
  s.usableFor k ignoreState (s.shedLoad (s.context k).set) r

/-- The one old source of a context that has exactly one (R125, R138). -/
def Context.oneOldSource (c : Context) : Option SrcId :=
  match FourSet.toList c.oldSources with
  | [n] => some n
  | _ => none

/-- The old device (R138): the incomer of the one old source, or the old borrow tie (log 19). -/
def State.oldDevice (s : State) (c : Context) : Option DevId :=
  match c.oneOldSource with
  | some n => s.incomerOf n
  | none => c.oldTie

/-- The old devices of the parallel rule (R156): the old borrow tie and the incomers of the old sources. -/
def State.isOldDevice (s : State) (c : Context) (d : DevId) : Bool :=
  c.oldTie == some d ||
    match s.incomerSource d with
    | some n => c.oldSources.get n
    | none => false

/-- The device is observed in a position. -/
def State.observedIs (s : State) (d : Option DevId) (p : Position) : Bool :=
  match d with
  | some d => (s.device d).observed == p
  | none => false

/-- The source that supplies the context's target route now (R144): of a TIE route, the feeding source of the
neighbouring island while the tie is counted open, of the island that holds the set once it is counted closed. -/
def State.targetSource (s : State) (c : Context) : Option SrcId :=
  match c.target with
  | none => none
  | some (.source n) => some n
  | some r =>
    match c.routeDevice with
    | some d => if s.countedClosed d then (s.setSupply c.set).source else s.routeSource c.set r
    | none => s.routeSource c.set r

/-- The device's operation is an OPEN. -/
def State.opening (s : State) (d : DevId) : Bool :=
  match (s.device d).op with
  | .inProgress .opn _ => true
  | _ => false

/-- An OPEN for the device waits in the injection queue, queued by `o`. -/
def State.openQueuedBy (s : State) (d : DevId) (o : Enqueuer) : Bool :=
  (s.queued d).any fun e => e.code == .opn && e.owner == o

/-- The device's operation is an OPEN that is the context's own or counts as its own. -/
def State.ownOpening (s : State) (k : CtxId) (d : DevId) : Bool := s.opening d && (s.context k).sent.get d

/-- An OPEN for the device that the context counts as its own has not settled (R143). -/
def State.ownOpenUnsettled (s : State) (k : CtxId) (d : DevId) : Bool :=
  s.openQueuedBy d (.context k) || s.ownOpening k d

/-- The context waits, with its reroute mark, for the old device in SYNC_WAIT or CLOSING_PARALLEL (R143, R152). -/
def Context.waitsForOld (c : Context) : Bool := c.reroute && (c.phase == .syncWait || c.phase == .closingParallel)

/-- The context has an OPEN for the device queued or in progress (R156, R162): one that it queued, or the Emergency Latch,
or an operation that is the context's own or counts as its own (log 22). -/
def State.openUnderWay (s : State) (k : CtxId) (d : DevId) : Bool :=
  s.openQueuedBy d (.context k) || s.openQueuedBy d .emergency ||
    (s.ownOpening k d && !(s.context k).waitsForOld)

/-- The closed-transition check (R134). -/
def State.closedCheck (s : State) (k : CtxId) : Bool :=
  let c := s.context k
  match c.target with
  | some (.source n) =>
    !c.excluded.contains (.source n) && s.isAvailable n && s.fits n (s.setLoad c.set) &&
      (match s.incomerOf n with
        | some d => s.owns k d && s.usableDevice d && !s.countedClosed d
        | none => false) &&
      match s.fedAvailable c.set with
      | some f => f != n
      | none => false
  | _ => false

/-- Queue a command of the context's for a device it owns (R30). -/
def State.command (s : State) (k : CtxId) (code : Cmd) (d : Option DevId) : State :=
  match d with
  | some d => if s.owns k d then s.enqueue d code (.context k) else s
  | none => s

/-- Queue an OPEN for the route device if it is counted closed (R137, R146). -/
def State.openRoute (s : State) (k : CtxId) : State :=
  match (s.context k).routeDevice with
  | some d => if s.countedClosed d then s.command k .opn (some d) else s
  | none => s

/-- Start the context's phase timer (R127). -/
def State.startTimer (s : State) (k : CtxId) (t : TimerKind) (ms : Nat) : State :=
  s.updContext k fun c => { c with timer := some (t, s.after ms) }

def State.stagger (s : State) (k : CtxId) : Nat := (s.sectionEntry (s.context k).lead).stagger

/-! ## Ending (R124, R125, R156) -/

/-- The parallel rule of R156: the context's own close does not leave two sources in parallel. -/
def State.parallelRule (s : State) (k : CtxId) : State :=
  let c := s.context k
  match c.routeDevice with
  | none => s
  | some r =>
    let island := s.reach s.countedClosed c.set
    let standing := fun o =>
      o != r && s.isOldDevice c o && s.countedClosed o && s.connects o island && !s.openUnderWay k o
    if s.countedClosed r && allDevices.any standing then s.command k .opn (some r) else s

/-- Re-check the deferred word of a released device (R54, R73). -/
def State.recheck (k : CtxId) (s : State) (d : DevId) : State :=
  match (s.device d).deferred with
  | none => s
  | some w =>
    let v := s.judge .processorWrite d (commandCode w)
    let t := s.updDevice d fun x => { x with deferred := none }
    match v, commandCode w with
    | .pass _, some c => t.enqueue d c (.context k)
    | .refuse r, _ => t.raise (s.refusedDeferred k d w r)
    | _, _ => t

/-- Release (R51): cancel the queued CLOSEs, return every device, re-check the deferred words in ascending order. -/
def State.release (s : State) (k : CtxId) : State :=
  let s := s.cancelCloses k
  let ds := allDevices.filter fun d => s.owns k d
  let s := ds.foldl (fun s d => s.setOwner d .processor) s
  ds.foldl (State.recheck k) s

/-- The state a section of the set takes by the result (R103); `named` are the sections a disarm or trip notice named. -/
def sectionAfter (r : Result) (named : Bool) : SectionState :=
  match r with
  | .done | .doneWithheld | .recovered | .supplied | .returnCancelled => .armed
  | .disarmed => if named then .disarmed else .held
  | .emergency => .disarmed
  | .tripped => if named then .lockout else .held
  | .noRoute | .deviceFailed | .parallelLimit | .syncTimeout | .operatorOpen | .islandSplit | .locked => .held

/-- The transfer completed, so the hand-overs of R123 are made. -/
def Result.completed (r : Result) : Bool := r == .done || r == .doneWithheld

/-- The borrow tie a completed transfer records (R9): its tie position for a TIE route, none for a SOURCE route. -/
def Context.borrowAfter (c : Context) : Option TieId :=
  match c.target with
  | some .tieLeft => leftBorder c.set
  | some .tieRight => rightBorder c.set
  | _ => none

/-- The hand-overs of R123 for one section of the set (R105, R9). -/
def State.handOver (c : Context) (s : State) (b : SecId) : State :=
  s.setSection b { s.section b with
    borrow := c.borrowAfter,
    withheld := Sixteen.ofFn fun d => c.withheld.get d && s.feederOn (singleSection b) d }

/-- Step 5 of R124: the sections by the result, the hand-overs, and the evaluation of the sections made ARMED. -/
def State.endSections (asg : State → State) (k : CtxId) (r : Result) (named : FourSet) (s : State) : State :=
  let c := s.context k
  let bs := FourSet.toList c.set
  let s := bs.foldl (fun s b => s.setSectionState b (sectionAfter r (named.get b))) s
  let s := if r.completed then bs.foldl (State.handOver c) s else s
  s.evaluate asg none (bs.filter fun b => sectionAfter r (named.get b) == .armed)

/-- The from-route of the TRANSFER_END frame (R125); an old borrow tie inside the set has no side of it. -/
def State.fromRoute (s : State) (c : Context) : Option Route :=
  match c.oneOldSource, c.oldTie with
  | some n, _ => some (.source n)
  | none, some d =>
    match s.kindOf d with
    | .tie t =>
      if t.val < c.set.lowest.val then some .tieLeft
      else if c.set.highest.val ≤ t.val then some .tieRight
      else none
    | _ => none
  | none, none => none

/-- The duration of the TRANSFER_END frame in 10 ms units, capped at 65535 (R125). -/
def State.duration10 (s : State) (c : Context) : Nat := min ((s.ms - c.start).toNat / 10) 65535

/-- The TRANSFER_END frame of a context (R125). -/
def State.transferEnd (s : State) (k : CtxId) (r : Result) : Incident :=
  let c := s.context k
  { cls := .transferEnd, sec := some c.lead, dev := c.routeDevice, src := c.target.bind (s.routeSource c.set),
    ctx := some k, cause := c.cause,
    w5 := BitVec.ofNat 16 (r.code + 16 * c.kind.code + 64 * bit c.converted + 128 * c.transition.code +
      256 * routeCode (s.fromRoute c) + 4096 * routeCode c.target),
    w6 := BitVec.ofNat 16 (s.duration10 c), w7 := BitVec.ofNat 16 (deviceBits c.withheld) }

/-- Step 6 of R124: raise the frame and mark its slot with the context (R173). -/
def State.raiseEnd (k : CtxId) (r : Result) (s : State) : State :=
  let slot := s.recorder.index
  let s := s.raise (s.transferEnd k r)
  { s with recorder := { s.recorder with marks := s.recorder.marks.set k (some slot) } }

/-- A context enters ENDING with a result (R124). -/
def endContext (asg : State → State) (k : CtxId) (r : Result) (named : FourSet) (s : State) : State :=
  let s := s.parallelRule k
  let s := s.withdrawClaim k
  let s := s.updContext k fun c =>
    { c with state := .ending, phase := .ending, result := some r, awaited := none, timer := none, reroute := false }
  ((s.workOutDemands.release k).endSections asg k r named).raiseEnd k r

/-! ## RESTORING (R120 to R123) -/

/-- The end of the restore list (R123). -/
def endRestore (asg : State → State) (k : CtxId) (s : State) : State :=
  endContext asg k (if DevSet.isEmpty (s.context k).withheld then .done else .doneWithheld) FourSet.none s

/-- The set's feeding source has spare for the feeder; not when the set is not FED (R121). -/
def State.feederFits (s : State) (k : CtxId) (d : DevId) : Bool :=
  match s.setSupply (s.context k).set with
  | .fed f => s.fits f (s.entry d).demand
  | _ => false

def Context.advance (c : Context) : Context := { c with cursor := c.cursor + 1 }

/-- Take the feeders from the cursor on while the takes settle at once (R121). -/
def restoreWalk (asg : State → State) (k : CtxId) : List DevId → State → State
  | [], s => endRestore asg k s
  | d :: ds, s =>
    if !s.owns k d || (s.device d).observed == .closed || !s.usableDevice d then
      restoreWalk asg k ds (s.updContext k Context.advance)
    else if !s.feederFits k d then
      restoreWalk asg k ds (s.updContext k fun c => { c.advance with withheld := c.withheld.set d true })
    else
      (s.enqueue d .cls (.context k)).updContext k fun c => { c with restoring := some d, sent := DevSet.none }

/-- Go on with the restore list: the end when the cursor has passed it, else the next take when no feeder is outstanding
and the stagger is not running (R121 to R123). -/
def restoreNext (asg : State → State) (k : CtxId) (s : State) : State :=
  let c := s.context k
  if c.restoring.isSome then s
  else if c.restoreList.length ≤ c.cursor then endRestore asg k s
  else if c.timer.isSome then s
  else restoreWalk asg k (c.restoreList.drop c.cursor) s

/-- The restore list: priority ascending, device index ascending within a priority (R120). -/
def State.restoreOrder (s : State) (x : DevSet) : List DevId :=
  (List.range 8).flatMap fun p => (DevSet.toList x).filter fun d => (s.entry d).priority == p

/-- Entry to RESTORING (R120, R140). -/
def enterRestoring (asg : State → State) (k : CtxId) (s : State) : State :=
  restoreNext asg k (s.updContext k fun c =>
    { c with phase := .restoring, restoreList := s.restoreOrder (DevSet.union c.shed c.carried), cursor := 0,
             restoring := none, sent := DevSet.none, withheld := DevSet.none })

/-- The feeder at the cursor settles (R122). -/
def settleFeeder (asg : State → State) (k : CtxId) (s : State) : State :=
  restoreNext asg k (s.updContext k fun c => { c.advance with restoring := none })

/-- A feeder that the operator opened leaves the list, neither restored nor withheld (R152). -/
def dropFeeder (asg : State → State) (k : CtxId) (d : DevId) (s : State) : State :=
  restoreNext asg k (s.updContext k fun c =>
    { c with restoreList := c.restoreList.filter (· != d), restored := c.restored.set d false,
             restoring := if c.restoring = some d then none else c.restoring })

/-! ## OPENING and DEAD_WAIT (R115 to R117) -/

/-- Entry to DEAD_WAIT (R117). -/
def State.enterDeadWait (s : State) (k : CtxId) : State :=
  (s.updContext k fun c => { c with phase := .deadWait }).startTimer k .deadBus
    (s.sectionEntry (s.context k).lead).deadBus

/-- Every INCOMER of the set is observed OPEN and the set is UNFED (R116, R117). -/
def State.dead (s : State) (x : FourSet) : Bool :=
  (allDevices.all fun d => !s.incomerOn x d || (s.device d).observed == .opened) && s.setSupply x == .unfed

/-- An OPEN has failed of an INCOMER, the old borrow tie or an abandoned route device (R116). -/
def State.openingFailed (s : State) (c : Context) : Bool :=
  (DevSet.toList c.failed).any fun d => (s.incomerSource d).isSome || c.oldTie == some d || c.abandoned.get d

/-- The last OPEN has settled, without a reroute mark (R116). -/
def leaveOpening (asg : State → State) (k : CtxId) (s : State) : State :=
  let c := s.context k
  if s.openingFailed c then endContext asg k .deviceFailed FourSet.none s
  else if s.dead c.set then s.enterDeadWait k
  else endContext asg k .deviceFailed FourSet.none s

/-- The devices that OPENING opens (R115): counted closed, and an INCOMER or a shed-flagged FEEDER of the set, the old
borrow tie, an abandoned route device or a restored feeder. -/
def State.openingList (s : State) (c : Context) : List DevId :=
  allDevices.filter fun d =>
    s.countedClosed d &&
      (s.incomerOn c.set d || c.oldTie == some d || c.abandoned.get d ||
        (s.feederOn c.set d && (s.entry d).shed) || c.restored.get d)

/-- Entry to OPENING (R115). -/
def enterOpening (asg : State → State) (k : CtxId) (s : State) : State :=
  let ds := s.openingList (s.context k)
  let s := s.updContext k fun c =>
    { c with phase := .opening, sent := DevSet.none, failed := DevSet.none, opening := DevSet.none, closeInMemory := false }
  if ds.any fun d => !s.owns k d then endContext asg k .deviceFailed FourSet.none s
  else
    let t := ds.foldl (fun s d => s.enqueue d .opn (.context k)) s
    let t := t.updContext k fun c =>
      { c with opening := Sixteen.ofFn fun d => ds.contains d,
               shed := Sixteen.ofFn fun d => c.shed.get d || (ds.contains d && s.feederOn (Four.fill true) d) }
    if ds.isEmpty then leaveOpening asg k t else t

/-! ## SELECT (R111, R112) -/

/-- Take a route (R111 step 2): it is the target, its device the route device, an earlier route device is abandoned. -/
def takeRoute (asg : State → State) (k : CtxId) (r : Route) (s : State) : State :=
  let d := s.routeDeviceFor (s.context k).set r
  let s := s.updContext k fun c =>
    let left := match c.routeDevice with
      | some o => c.abandoned.set o true
      | none => c.abandoned
    { c with target := some r, routeDevice := d, awaited := none, timer := none,
             abandoned := match d with
               | some d => left.set d false
               | none => left }
  enterOpening asg k s.workOutDemands

/-- Entry to AWAIT_SOURCE (R111 step 3, R114): the start limit runs on when the same source was awaited before. -/
def State.enterAwait (s : State) (k : CtxId) (n : SrcId) : State :=
  let c := s.context k
  let s := if c.awaited = some n ∧ c.timer.isSome then s else s.startTimer k .startLimit (s.sourceEntry n).startLimit
  (s.updContext k fun c => { c with phase := .awaitSource, awaited := some n }).workOutDemands

/-- A SOURCE route that may be awaited (R111 step 3). -/
def State.awaitable (s : State) (k : CtxId) (r : Route) : Option SrcId :=
  match r with
  | .source n =>
    let st := (s.source n).state
    if (s.sourceEntry n).generator && (st == .failed || st == .proving) && s.usable k true r then some n else none
  | _ => none

/-- SELECT without a fixed target (R111). -/
def selectList (asg : State → State) (k : CtxId) (s : State) : State :=
  let c := s.context k
  match s.fedAvailable c.set with
  | some f => endContext asg k (if c.oldSources.get f then .recovered else .supplied) FourSet.none s
  | none =>
    let routes := (s.sectionEntry c.lead).routes.filter fun r => !c.excluded.contains r
    match routes.find? (s.usable k false) with
    | some r => takeRoute asg k r s
    | none =>
      match routes.findSome? (s.awaitable k) with
      | some n => s.enterAwait k n
      | none => endContext asg k .noRoute FourSet.none s

/-- SELECT with a fixed target (R112). -/
def selectFixed (asg : State → State) (k : CtxId) (r : Route) (s : State) : State :=
  let c := s.context k
  if !c.excluded.contains r && s.usable k false r then takeRoute asg k r s
  else if s.fedNotFailed c.set then endContext asg k .returnCancelled FourSet.none s
  else selectList asg k (s.updContext k fun c => { c with kind := .supply, converted := true, fixed := false })

/-- Entry to SELECT; the reroute mark is cleared (R143). -/
def enterSelect (asg : State → State) (k : CtxId) (s : State) : State :=
  let s := s.updContext k fun c => { c with phase := .select, reroute := false }
  match (s.context k).fixed, (s.context k).target with
  | true, some r => selectFixed asg k r s
  | _, _ => selectList asg k s

/-- The last OPEN of OPENING has settled (R116, R143). -/
def openingSettled (asg : State → State) (k : CtxId) (s : State) : State :=
  let c := s.context k
  if c.reroute && !s.openingFailed c then enterSelect asg k s else leaveOpening asg k s

/-- An OPEN of OPENING settles, by completion or by failure (R116). -/
def settleOpen (asg : State → State) (k : CtxId) (d : DevId) (failed : Bool) (s : State) : State :=
  let s := s.updContext k fun c =>
    { c with opening := c.opening.set d false, sent := c.sent.set d false,
             failed := if failed then c.failed.set d true else c.failed }
  if DevSet.isEmpty (s.context k).opening then openingSettled asg k s else s

/-! ## Going back to SELECT (R143) -/

/-- The context's target joins its exclusion set (R113). -/
def Context.exclude (c : Context) (r : Option Route) : Context :=
  match r with
  | some r => if c.excluded.contains r then c else { c with excluded := c.excluded ++ [r] }
  | none => c

/-- The phase timer that R143 discards: the start limit runs on. -/
def keptTimer (t : Option (TimerKind × Ms)) : Option (TimerKind × Ms) :=
  match t with
  | some (.startLimit, e) => some (.startLimit, e)
  | _ => none

/-- Step 5 of R143: the context stays in its phase until an OPEN that it counts as its own has settled. In SYNC_WAIT and
CLOSING_PARALLEL it does so at the operator's open alone; a return at another event while the reroute mark is set there
runs SELECT at once, though R152 keeps the mark until the open settles (the model's choice, log 33). -/
def State.mustSettle (s : State) (k : CtxId) (oldUnsettled : Bool) : Bool :=
  let c := s.context k
  match c.phase with
  | .opening => !DevSet.isEmpty c.opening
  | .openingOld =>
    match s.oldDevice c with
    | some d => s.ownOpenUnsettled k d
    | none => false
  | .syncWait | .closingParallel => oldUnsettled
  | _ => false

/-- A context goes back to SELECT from a later phase (R143). `excluded` is the route the rule names as excluded;
`oldUnsettled` says that an operator's open of the old device has not settled (R152). -/
def returnToSelect (asg : State → State) (k : CtxId) (excluded : Option Route) (oldUnsettled : Bool) (s : State) : State :=
  let s := (s.updContext k fun c => c.exclude excluded).withdrawClaim k
  let s := (s.updContext k fun c =>
    { c with transition := .opn, timer := keptTimer c.timer, restoring := none }).cancelCloses k
  if s.mustSettle k oldUnsettled then s.updContext k fun c => { c with reroute := true }
  else enterSelect asg k s

/-- Back to SELECT with the target excluded. -/
def rerouteTarget (asg : State → State) (k : CtxId) (s : State) : State :=
  returnToSelect asg k (s.context k).target false s

/-! ## CLOSING (R118, R119) -/

/-- Entry to CLOSING: the re-check, and the route CLOSE (R118). -/
def enterClosing (asg : State → State) (k : CtxId) (s : State) : State :=
  let s := s.updContext k fun c => { c with phase := .closing, timer := none, closeInMemory := false }
  match (s.context k).target with
  | some r =>
    if s.usableFor k false (s.recheckLoad (s.context k)) r then s.command k .cls (s.context k).routeDevice
    else rerouteTarget asg k s
  | none => rerouteTarget asg k s

/-! ## The closed-transition phases (R134 to R140) -/

/-- Entry to SYNC_WAIT (R134): the check, then the claim. -/
def enterSyncWait (asg : State → State) (k : CtxId) (s : State) : State :=
  let s := s.updContext k fun c =>
    { c with phase := .syncWait, routeDevice := c.target.bind (s.routeDeviceFor c.set) }
  if s.closedCheck k then
    { s.updContext k (fun c => { c with claim := .waiting }) with sync := { s.sync with claims := s.sync.claims ++ [k] } }
  else returnToSelect asg k none false s

/-- Queue an OPEN for the old device if it is counted closed (R138). -/
def State.openOld (s : State) (k : CtxId) : State :=
  match s.oldDevice (s.context k) with
  | some d => if s.countedClosed d then s.command k .opn (some d) else s
  | none => s

/-- Entry to OPENING_OLD (R138); with the old device observed OPEN already, RESTORING follows (R152). -/
def enterOpeningOld (asg : State → State) (k : CtxId) (s : State) : State :=
  let s := (s.updContext k fun c => { c with phase := .openingOld }).openOld k
  if s.observedIs (s.oldDevice (s.context k)) .opened then
    enterRestoring asg k (s.updContext k fun c => { c with timer := none })
  else s.startTimer k .overlap s.board.overlap

/-- The old device is observed OPEN in OPENING_OLD, or while the reroute mark waits for it (R138, R143). -/
def oldOpened (asg : State → State) (k : CtxId) (s : State) : State :=
  if (s.context k).reroute then enterSelect asg k s
  else enterRestoring asg k (s.updContext k fun c => { c with timer := none })

/-- The frame of R139 for the old device. -/
def State.overlapIncident (s : State) (k : CtxId) (d : DevId) : Incident :=
  { cls := .deviceNoResponse, sec := s.frameSection d, dev := some d, src := s.incomerSource d, ctx := some k,
    cause := (s.context k).cause, w5 := BitVec.ofNat 16 Cmd.opn.code }

/-- The end of the overlap (R139), or the failure of the old device's operation, which raises no frame of the context's
own (R138). -/
def endOverlap (asg : State → State) (k : CtxId) (raises : Bool) (s : State) : State :=
  let s := s.command k .opn (s.context k).routeDevice
  let s := match raises, s.oldDevice (s.context k) with
    | true, some d => s.raise (s.overlapIncident k d)
    | _, _ => s
  endContext asg k .parallelLimit FourSet.none s

/-- The route device's close has failed in CLOSING_PARALLEL (R137). -/
def failParallel (asg : State → State) (k : CtxId) (s : State) : State :=
  endContext asg k (if s.board.responses.nextRoute then .returnCancelled else .deviceFailed) FourSet.none (s.openRoute k)

/-! ## Notices (R48, R142) -/

/-- The old device whose observed OPEN ends a wait of the context's: in OPENING_OLD the old device, in SYNC_WAIT or
CLOSING_PARALLEL with the reroute mark set the one that the operator has opened (R138, R143, R152). -/
def State.awaitsOpen (s : State) (c : Context) (d : DevId) : Bool :=
  if c.waitsForOld then s.isOldDevice c d && c.sent.get d else c.phase == .openingOld && s.oldDevice c == some d

/-- A device's OPEN counts as the context's own from here on (R152). -/
def State.countOwn (s : State) (k : CtxId) (d : DevId) : State :=
  s.updContext k fun c => { c with sent := c.sent.set d true }

/-- Completed (R48): the operation of a captured device has completed. -/
def onCompleted (asg : State → State) (k : CtxId) (d : DevId) (code : Cmd) (s : State) : State :=
  let c := s.context k
  if !s.active k then s
  else if s.awaitsOpen c d && s.observedIs (some d) .opened then oldOpened asg k s
  else
    match c.phase, code with
    | .opening, .opn => if c.opening.get d && c.sent.get d then settleOpen asg k d false s else s
    | .closing, .cls => if c.routeDevice = some d then enterRestoring asg k s else s
    | .restoring, .cls => if c.restoring = some d then settleFeeder asg k s else s
    | .closingParallel, .cls =>
      if c.routeDevice = some d && !c.reroute then enterOpeningOld asg k s else s
    | _, _ => s

/-- Failed (R48, R147): the operation of a captured device has missed its deadline. An operation that the context neither
commanded nor counts as its own changes nothing in it. Nor does, in CLOSING_PARALLEL with claim NONE, the operator's OPEN of
the old device that R152 counts (the model's choice, log 35), nor a CLOSE of the context's own that runs on after it has gone
back to SELECT (the model's choice, log 39). -/
def onFailed (asg : State → State) (k : CtxId) (d : DevId) (code : Cmd) (s : State) : State :=
  let c := s.context k
  if !s.active k then s
  else if s.awaitsOpen c d && c.sent.get d && code == .opn then
    (if c.reroute then endContext asg k .deviceFailed FourSet.none s else endOverlap asg k false s)
  else
    match c.phase, code with
    | .opening, .opn => if c.opening.get d && c.sent.get d then settleOpen asg k d true s else s
    | .closing, .cls =>
      if c.routeDevice = some d && c.closeInMemory then
        (if s.board.responses.nextRoute then rerouteTarget asg k s else endContext asg k .deviceFailed FourSet.none s)
      else s
    | .restoring, .cls => if c.restoring = some d && c.sent.get d then settleFeeder asg k s else s
    | .closingParallel, .cls => if c.routeDevice = some d then failParallel asg k s else s
    | _, _ => s

/-- Injection outcome: the command has reached memory (R48, R119, R122, R137). -/
def onReached (k : CtxId) (d : DevId) (code : Cmd) (s : State) : State :=
  let c := s.context k
  match c.phase, code with
  | .opening, .opn =>
    if c.opening.get d then s.countOwn k d else s
  | .openingOld, .opn => if s.oldDevice c = some d then s.countOwn k d else s
  | .closing, .cls =>
    if c.routeDevice = some d then
      (s.updContext k fun c => { c with closeInMemory := true }).startTimer k .stagger (s.stagger k)
    else s
  | .restoring, .cls =>
    (s.updContext k fun c => { c with restored := c.restored.set d true, sent := c.sent.set d true }).startTimer k .stagger
      (s.stagger k)
  | .closingParallel, .cls => if c.routeDevice = some d then s.withdrawClaim k else s
  | _, _ => s

/-- Injection outcome: the command was refused (R74). -/
def onRefused (asg : State → State) (k : CtxId) (d : DevId) (s : State) : State :=
  let c := s.context k
  match c.phase with
  | .closing | .closingParallel => if c.routeDevice = some d then rerouteTarget asg k s else s
  | .restoring =>
    if c.restoring = some d then
      settleFeeder asg k (s.updContext k fun c => { c with withheld := c.withheld.set d true })
    else s
  | _ => s

/-- Position changed (R48): what the context does by R138, R143, R148 and R153. `was` is the position before the word,
`wasClosed` whether the device was counted closed, `tripRose` whether the word raised the tripped indication (R149). -/
def onPosition (asg : State → State) (k : CtxId) (d : DevId) (was : Position) (wasClosed tripRose : Bool) (s : State) :
    State :=
  let c := s.context k
  let now := (s.device d).observed
  if !s.active k then s
  else if s.tieInside d c.set && now == .opened && wasClosed && !tripRose then endContext asg k .islandSplit FourSet.none s
  else if s.awaitsOpen c d && now == .opened then oldOpened asg k s
  else if c.abandoned.get d && now == .closed && was != .closed && !tripRose then
    match c.phase with
    | .awaitSource | .deadWait => returnToSelect asg k none false s
    | .closing => if c.closeInMemory then s else returnToSelect asg k none false s
    | _ => s
  else s

/-- A device of OPENING whose operator's OPEN counts as the context's own (R152): the old incomer, the old borrow tie, an
abandoned route device, a shed or restored feeder. -/
def State.opensInOpening (s : State) (c : Context) (d : DevId) : Bool :=
  c.routeDevice != some d &&
    (c.opening.get d || s.isOldDevice c d || c.abandoned.get d || c.shed.get d || c.restored.get d)

/-- The operator has opened the old device before the parallel (R152): back to SELECT once the OPEN has settled. -/
def operatorOpensOld (asg : State → State) (k : CtxId) (d : DevId) (s : State) : State :=
  returnToSelect asg k none (!s.observedIs (some d) .opened) (s.countOwn k d)

/-- Operator open (R152): a processor OPEN has passed for a captured device. In OPENING it settles by its own result, the
result of an earlier OPEN of the device forgotten (the model's choice, log 32). -/
def onOperatorOpen (asg : State → State) (k : CtxId) (d : DevId) (wasClosed : Bool) (s : State) : State :=
  let c := s.context k
  let routePhase := c.phase == .closing || c.phase == .restoring || c.phase == .closingParallel || c.phase == .openingOld
  if !s.active k then s
  else if c.routeDevice = some d && routePhase then endContext asg k .operatorOpen FourSet.none s
  else if s.tieInside d c.set && wasClosed then endContext asg k .islandSplit FourSet.none s
  else
    match c.phase with
    | .opening =>
      if s.opensInOpening c d then
        (s.countOwn k d).updContext k fun c =>
          { c with opening := c.opening.set d true, failed := c.failed.set d false }
      else s
    | .syncWait => if s.isOldDevice c d then operatorOpensOld asg k d s else s
    | .closingParallel =>
      if s.isOldDevice c d then
        (if c.claim = .held then operatorOpensOld asg k d s else s.countOwn k d)
      else s
    | .openingOld => if s.isOldDevice c d then s.countOwn k d else s
    | .restoring => if (c.restoreList.drop c.cursor).contains d then dropFeeder asg k d s else s
    | _ => s

/-- A notice that one event gives to several contexts: those that `who` names as the event gives it, in the order X0, X1, X2
(R82, R83, R149). A context that starts at another's reaction gets none. -/
def State.tellEach (s : State) (who : CtxId → Bool) (f : State → CtxId → State) : State :=
  (allContexts.filter who).foldl f s

/-- Source lost (R144 to R146): the target's loss comes before the old source's. In SYNC_WAIT the rows are for a claim
WAITING or HELD. -/
def onSourceLost (asg : State → State) (n : SrcId) (s : State) (k : CtxId) : State :=
  let c := s.context k
  if !s.active k then s
  else if s.targetSource c = some n then
    match c.phase with
    | .opening | .deadWait | .closing | .restoring => rerouteTarget asg k s
    | .syncWait => if c.claim = .none then s else endContext asg k .returnCancelled FourSet.none s
    | .closingParallel => endContext asg k .returnCancelled FourSet.none (s.openRoute k)
    | .openingOld =>
      rerouteTarget asg k (s.updContext k fun c => { c with kind := .supply, converted := true, fixed := false })
    | .select | .awaitSource | .ending => s
  else if c.oldSources.get n && c.phase == .syncWait && c.claim != .none then returnToSelect asg k none false s
  else s

/-- The context waits in AWAIT_SOURCE (R83, R114). -/
def State.awaitsSource (s : State) (k : CtxId) : Bool := s.active k && (s.context k).phase == .awaitSource

/-- Source returned (R83, R114): SELECT is run again. That is no return to SELECT by R143, so no queued CLOSE is cancelled
(the model's choice, log 37). -/
def onSourceReturned (asg : State → State) (s : State) (k : CtxId) : State :=
  if s.awaitsSource k then enterSelect asg k s else s

/-- Lock (R154). -/
def onLock (asg : State → State) (k : CtxId) (s : State) : State :=
  if s.active k then endContext asg k .locked FourSet.none s else s

/-- Disarm (R155), naming the sections of the set that the write disarms. -/
def onDisarm (asg : State → State) (k : CtxId) (named : FourSet) (s : State) : State :=
  if s.active k then endContext asg k .disarmed named s else s

/-- The context gets the notice of a trip (R149): it owns the tripped device, or its set holds a section that the trip left
UNFED. -/
def State.hearsTrip (s : State) (d : DevId) (unfed : FourSet) (k : CtxId) : Bool :=
  s.active k && (s.owns k d || FourSet.overlaps unfed (s.context k).set)

/-- Trip (R149 to R151), naming the sections of the set that the trip left UNFED. -/
def onTrip (asg : State → State) (d : DevId) (unfed : FourSet) (s : State) (k : CtxId) : State :=
  let c := s.context k
  let named := Four.ofFn fun b => unfed.get b && c.set.get b
  let some_ := FourSet.overlaps unfed c.set
  if !s.active k then s
  else if !s.board.responses.treatAsLoss && some_ then endContext asg k .tripped named s
  else if s.tieInside d c.set && s.observedIs (some d) .opened then endContext asg k .islandSplit FourSet.none s
  else if c.routeDevice = some d && c.phase != .awaitSource then rerouteTarget asg k s
  else
    match c.phase with
    | .syncWait => if s.isOldDevice c d && c.claim != .none then returnToSelect asg k none false s else s
    | .closing => if some_ && c.closeInMemory then rerouteTarget asg k s else s
    | .restoring => if some_ then rerouteTarget asg k s else s
    | _ => s

/-- Leave (R135): the check again, and the parallel close. -/
def onLeave (asg : State → State) (k : CtxId) (running : SrcId) (s : State) : State :=
  if s.active k && (s.context k).phase == .syncWait then
    if s.closedCheck k && s.fedAvailable (s.context k).set == some running then
      (s.command k .cls (s.context k).routeDevice).updContext k fun c => { c with phase := .closingParallel }
    else returnToSelect asg k none false s
  else s

/-- Timeout (R136), after the selector has been released: a close still queued is cancelled before the response. -/
def onTimeout (asg : State → State) (k : CtxId) (s : State) : State :=
  let c := s.context k
  if s.active k && (c.phase == .syncWait || c.phase == .closingParallel) then
    if s.board.responses.openTransition then returnToSelect asg k none false s
    else endContext asg k .syncTimeout FourSet.none (s.cancelCloses k)
  else s

/-! ## Starting (R109) -/

/-- Capture (R50): each device that connects to the set, and the old borrow tie, owned by PROCESSOR; a CLOSE the context
itself queued for it in an earlier transfer is cancelled. -/
def State.capture (k : CtxId) (s : State) (d : DevId) : State :=
  let c := s.context k
  if s.hasRecord d && (s.connects d c.set || c.oldTie == some d) && (s.device d).owner == .processor then
    (s.setOwner d (.context k)).dropInjections fun e =>
      e.device == d && e.code == .cls && e.owner == .context k
  else s

/-- The record of a starting context (R109); its lead is the lowest section of its set (R7, R8, R108; log 26). -/
def State.startRecord (s : State) (e : Request) (set : FourSet) : Context :=
  let borrowed := if e.kind = .supply then none else (s.section e.lead).borrow
  { Context.blank with
    state := .active, kind := e.kind, transition := e.transition, set := set, lead := set.lowest,
    oldTie := borrowed.bind s.tieAt,
    oldSources := Four.ofFn fun n =>
      match s.incomerOf n with
      | some d => s.incomerOn set d && s.countedClosed d
      | none => false
    target := e.target, fixed := e.target.isSome,
    carried := (FourSet.toList set).foldl (fun x b => DevSet.union x (s.section b).withheld) DevSet.none,
    cause := e.cause, start := s.ms }

/-- A context starts on a taken entry (R109). -/
def startContext (asg : State → State) (k : CtxId) (e : Request) (set : FourSet) (s : State) : State :=
  let s := s.setContext k (s.startRecord e set)
  let s := allDevices.foldl (State.capture k) s
  match e.transition with
  | .opn => enterSelect asg k s
  | .closed => enterSyncWait asg k s

end Sys2Proof.Machine
end

