-- ==== Sys2Proof/Machine/Assign.lean ====
section
/-! DEFINITION. Context assignment and the taking of a request (R101, R102), and the application of a pending copy (R16 to
R18). -/

namespace Sys2Proof.Machine

/-! ## The test of R102 -/

/-- The set of a request, recomputed by R8. -/
def State.requestSet (s : State) (e : Request) : FourSet :=
  match e.kind with
  | .supply => s.island e.lead
  | .return | .manual => s.returnSet e.lead

/-- A section may be taken with the entry: it is in the entry, or ARMED, or in another entry that lies wholly in the
recomputed set (R102 step 1). -/
def State.takeable (s : State) (e : Request) (set : FourSet) (b : SecId) : Bool :=
  e.set.get b || (s.section b).state == .armed || s.queue.any fun x => x != e && x.set.get b && x.set.within set

/-- The need of an entry has gone (R102 step 2). -/
def State.needGone (s : State) (e : Request) (set : FourSet) : Bool :=
  match e.kind with
  | .supply => !s.needsSupply set
  | .return =>
    match s.fedAvailable set, e.target with
    | some f, some (.source c) =>
      !((rankedBefore (s.sectionEntry set.lowest).routes f).contains (.source c) && s.qualifies set c)
    | _, _ => true
  | .manual => s.manualBad set e.transition e.target

/-- The outcome of the test of R102. -/
inductive Taking where
  | ineligible (locked : Bool)
  | needGone
  | taken (set : FourSet)
  deriving DecidableEq, Repr

def State.takingTest (s : State) (e : Request) : Taking :=
  let set := s.requestSet e
  if s.anyLocked set || !((FourSet.toList set).all (s.takeable e set)) then .ineligible (s.anyLocked set)
  else if s.needGone e set then .needGone
  else .taken set

/-- An entry that fails the test is withdrawn or dropped (R102 steps 1 and 2). A MANUAL that is dropped raises its frame; one
that step 1 withdraws raises none, at a taking and at an application (the model's choice, log 34, where R100 says both). -/
def State.failTaking (asg : State → State) (e : Request) (t : Taking) (s : State) : State :=
  match t with
  | .ineligible true => s.withdrawHeld e
  | .ineligible false => s.withdrawArmed asg e
  | .needGone =>
    let s := if e.kind = .manual then s.raise (requestRefused e.lead (s.manualAddress e.lead) e.offered) else s
    s.withdrawArmed asg e
  | .taken _ => s

/-! ## Context assignment (R101) -/

/-- The context after another, wrapping from X2 to X0. -/
def nextContext (k : CtxId) : CtxId :=
  match k with
  | 0 => 1
  | 1 => 2
  | 2 => 0

/-- The first FREE context from the one after the last assigned. A context that a frame of the running event has freed
is left to the end of the event (R126). -/
def State.nextFree (s : State) : Option CtxId :=
  let k1 := nextContext s.lastAssigned
  let k2 := nextContext k1
  [k1, k2, s.lastAssigned].find? fun k => (s.context k).state == .free && !s.freed.get k

/-- Taking is open: no pending copy, the latch clear (R101). -/
def State.takingOpen (s : State) : Bool := s.store.pendingCopy.isNone && !s.latch.isSet

/-- The sections of an entry that lie outside its recomputed set. -/
def Request.outside (e : Request) (set : FourSet) : List SecId := (FourSet.toList e.set).filter fun b => !set.get b

/-- The entry is taken by a context (R102 step 3): the entries that lie in its set are merged, and its sections become
TRANSFERRING. Sections of the entry that its recomputed set has left out become ARMED and are not evaluated (the model's
choice, log 27). -/
def State.take (asg : State → State) (k : CtxId) (e : Request) (set : FourSet) (s : State) : State :=
  let s := s.setQueue (s.queue.filter fun x => x != e && !x.set.within set)
  startContext asg k e set
    (({ s with lastAssigned := k }.setSectionStates (e.outside set) .armed).setSectionStates (FourSet.toList set)
      .transferring)

/-- Take requests from the head of the queue while a context is FREE and taking is open (R101). -/
def assignN : Nat → State → State
  | 0, s => s
  | n + 1, s =>
    match s.queue with
    | [] => s
    | e :: _ =>
      match s.takingOpen, s.nextFree with
      | true, some k =>
        match s.takingTest e with
        | .taken set => assignN n (s.take (assignN n) k e set)
        | t => assignN n (s.failTaking (assignN n) e t)
      | _, _ => s

/-- Context assignment is tried (R101). -/
def assign (s : State) : State := assignN Config.takingDepth s

/-! ## Application (R16 to R18) -/

def DeviceKind.code : DeviceKind → Nat
  | .unused => 0
  | .incomer _ _ => 1
  | .tie _ => 2
  | .feeder _ => 3

/-- A record is kept at application: kind, command address and position address are unchanged (R17). -/
def DeviceEntry.keeps (old new : DeviceEntry) : Bool :=
  old.kind.code == new.kind.code && old.command == new.command && old.position == new.position

/-- The records of the entries that changed are blank, the others kept (R17). -/
def rebuild (old new : Board) (x : Sixteen Device) : Sixteen Device :=
  Sixteen.ofFn fun d => if (old.devices.get d).keeps (new.devices.get d) then x.get d else Device.blank

/-- A device that carries the emergency-open flag passes to EMERGENCY ownership, unless it has: its deferred slot is
emptied, and an OPEN is queued for it if it is counted closed (R161, R17). -/
def State.seize (s : State) (d : DevId) : State :=
  if s.hasRecord d && (s.entry d).emergencyOpen && (s.device d).owner != .emergency then
    let t := (s.updDevice d fun x => { x with deferred := none }).setOwner d .emergency
    if s.countedClosed d then t.enqueue d .opn .emergency else t
  else s

/-- The latch rules of R17 for one device, while the latch is set. -/
def State.matchLatch (s : State) (d : DevId) : State :=
  if !(s.entry d).emergencyOpen && (s.device d).owner == .emergency then s.setOwner d .processor else s.seize d

/-- Withheld sets drop what is no longer a FEEDER of the section, borrow ties what no longer holds a TIE (R18). -/
def State.trimSection (s : State) (b : SecId) : State :=
  let x := s.section b
  s.setSection b { x with
    withheld := Sixteen.ofFn fun d => x.withheld.get d && s.feederOn (singleSection b) d,
    borrow := x.borrow.filter fun t => (s.tieAt t).isSome }

/-- The status words application marks: the queue view, section, source, device and context status (R17, R18). -/
def applicationOffsets : List Nat :=
  queueOffsets ++ (List.range 4).map (0x210 + ·) ++ (List.range 4).map (0x218 + ·) ++
    (List.range 16).map (0x220 + ·) ++ (List.range 6).map (0x230 + ·)

/-- Every queued entry is tested against the new working copy in queue order (R100). -/
def State.retestQueue (s : State) : State :=
  s.queue.foldl (fun s e =>
    if s.queue.contains e then
      match s.takingTest e with
      | .taken _ => s
      | t => s.failTaking id e t
    else s) s

/-- The working copy is replaced and the records follow it (R16, R17). -/
def State.copyIn (s : State) (m : Memory) : State :=
  let old := s.board
  let new := boardOf m
  let lost := fun (e : Injection) => !(old.devices.get e.device).keeps (new.devices.get e.device)
  let t := s.dropInjections lost
  { t with
    devices := rebuild old new t.devices,
    store := { t.store with working := some new, pendingCopy := none },
    latch := { t.latch with seed := if t.latch.seed = .notApplied then .waiting else t.latch.seed } }

/-- The pending copy becomes the working copy; PENDING becomes APPLIED (R16). -/
def State.install (s : State) (m : Memory) : State :=
  (s.copyIn m).setCommit (if s.store.status = .pending then .applied else s.store.status) s.store.reject

/-- Application of a pending copy (R16 to R18), less the context assignment that follows it. While the latch is set, the
devices are matched with it in ascending index, so their OPENs join the injection queue in that order, which R17 leaves open
(the model's choice, log 15). -/
def State.applyCopy (s : State) (m : Memory) : State :=
  let s := s.install m
  let s := if s.latch.isSet then allDevices.foldl State.matchLatch s else s
  let s := (allFours.foldl State.trimSection s).workOutDemands
  let s := s.evaluate id none (allFours.filter fun b => (s.section b).state == .armed)
  s.retestQueue.markAll applicationOffsets

def State.allFree (s : State) : Bool := allContexts.all fun k => (s.context k).state == .free

/-- The pending copy is applied if there is one and every context is FREE (R16). -/
def State.applyIfFree (s : State) : State :=
  match s.store.pendingCopy with
  | some m => if s.allFree then s.applyCopy m else s
  | none => s

/-- What the freeing of a context allows (R126): application, then assignment. -/
def State.afterFreeing (s : State) : State := assign s.applyIfFree

/-! ## The end of an event -/

/-- A context in DEAD_WAIT: its timer stops while its set is not dead and starts afresh when it is again (R117). -/
def State.watchDead (s : State) (k : CtxId) : State :=
  let c := s.context k
  if c.state = .active ∧ c.phase = .deadWait then
    if s.dead c.set then
      (if c.timer.isSome then s else s.startTimer k .deadBus (s.sectionEntry c.lead).deadBus)
    else s.updContext k fun c => { c with timer := none }
  else s

/-- Act on the contexts that frames of the event have freed, once it has completed every step of its own rule (R126). -/
def settleFreed : Nat → State → State
  | 0, s => { s with freed := Three.fill false }
  | n + 1, s =>
    if s.freed = Three.fill false then s
    else settleFreed n { s with freed := Three.fill false }.afterFreeing

/-- The end of an event that began in `before`: the freed contexts, the dead-bus watch, and the status words whose image
the event has changed (R34, R117, R126). -/
def State.finish (s before : State) : State :=
  (allContexts.foldl State.watchDead (settleFreed Config.freeingRounds s)).markChanged before

end Sys2Proof.Machine
end

