-- ==== Sys2Proof/Machine/Tracker.lean ====
section
/-! DEFINITION. The Device Tracker (chapter 3): a command reaching memory, position words, operate deadlines, and the
notices they give; protection trips (R104, R149). -/

namespace Sys2Proof.Machine

/-- Tell a context, if there is one to tell. -/
def State.tell (s : State) (k : Option CtxId) (f : CtxId → State → State) : State :=
  match k with
  | some k => f k s
  | none => s

/-- Tell the context that owns a device, if one does (R48). An event that gives two notices gives both to the context that
owns the device as the event comes. -/
def State.tellOwner (s : State) (d : DevId) (f : CtxId → State → State) : State := s.tell (s.ownerContext d) f

/-- The operation once a command has reached memory (R42). -/
def State.startOperation (s : State) (d : DevId) (code : Cmd) : Operation :=
  if (s.device d).observed = code.target then .idle else .inProgress code (s.after (s.entry d).limit)

/-- A command reaches memory for a device (R39 to R42): the overrun check, the tag, the pending flag, the operation. -/
def State.commandReaches (s : State) (d : DevId) (code : Cmd) (tag : BitVec 4) (pending : Bool) : State :=
  let t :=
    if (s.device d).pending then
      (s.updDevice d fun x => { x with overrun := true }).raise (s.deviceIncident .commandOverrun d)
    else s
  t.updDevice d fun x => { x with tag := tag, pending := pending, op := s.startOperation d code }

/-- The completed notice, to the device's owner `k`, of a command that finds its target observed (R42, R48). -/
def State.tellIfObserved (s : State) (k : Option CtxId) (d : DevId) (code : Cmd) : State :=
  if (s.device d).observed = code.target then s.tell k fun k => onCompleted assign k d code else s

/-- A processor OPEN that passes (R39, R52): stored, taken, the queued injection cancelled, the deferred slot emptied,
the owner context told. -/
def State.processorOpens (s : State) (d : DevId) (a : Access) : State :=
  let closed := s.countedClosed d
  let t := (s.storeWord a.addr (commandWord .opn 0 (commandTag a.data))).commandReaches d .opn (commandTag a.data) true
  let t := (t.dropInjection d).updDevice d fun x => { x with deferred := none }
  (t.tellOwner d fun k => onOperatorOpen assign k d closed).tellIfObserved (s.ownerContext d) d .opn

/-- A processor CLOSE as the Write Guard judges it (R63, R69 to R71). -/
def State.processorCloses (s : State) (d : DevId) (a : Access) : State :=
  match s.judge .processorWrite d (some .cls) with
  | .pass _ =>
    ((s.storeWord a.addr (commandWord .cls 0 (commandTag a.data))).commandReaches d .cls (commandTag a.data) true).tellIfObserved
      (s.ownerContext d) d .cls
  | .defer =>
    (s.updDevice d fun x => { x with deferred := some a.data }).raise (s.refusedWrite d .deferred a.addr a.data)
  | .refuse r => s.raise (s.refusedWrite d r a.addr a.data)

/-- Hand an injection's outcome to the context that queued it, if it is still ACTIVE and still owns the device (R32). -/
def State.handOutcome (s : State) (e : Injection) (f : CtxId → State → State) : State :=
  match e.owner with
  | .context k => if s.active k && s.owns k e.device then f k s else s
  | .emergency => s

/-- An entry of the injection queue at its grant (R32, R33, R72): judged, then stored or refused. `scanner` says that a
scanner read carries it. -/
def State.carryInjection (s : State) (e : Injection) (scanner : Bool) : State :=
  let d := e.device
  match s.judge (.injection e.owner) d (some e.code) with
  | .pass exempt =>
    let t := (s.dropInjection d).storeWord (s.entry d).command (commandWord e.code 1 e.tag)
    let t := t.commandReaches d e.code e.tag (!scanner)
    let t := if exempt then t.releaseSync else t
    (t.handOutcome e fun k => onReached k d e.code).tellIfObserved (s.ownerContext d) d e.code
  | .refuse r =>
    let t := (s.dropInjection d).raise (s.refusedInjection e r)
    let t := if scanner then t.updDevice d fun x => { x with pending := false } else t
    t.handOutcome e fun k => onRefused assign k d
  | .defer => s

/-- The operate deadline of a device expires (R44). -/
def State.missDeadline (s : State) (d : DevId) (code : Cmd) : State :=
  let t := s.updDevice d fun x => { x with fail := true, op := .idle }
  let t := t.raise { s.deviceIncident .deviceNoResponse d with w5 := BitVec.ofNat 16 code.code }
  t.tellOwner d fun k => onFailed assign k d code

/-! ## Protection trips (R104, R149) -/

/-- The sections of the UNFED islands that hold a section the device connects to (R104). -/
def State.tripUnfed (s : State) (d : DevId) : FourSet :=
  Four.ofFn fun b => (s.kindOf d).sections.any fun a => s.supply a == .unfed && (s.island a).get b

/-- A section that a trip under LOCKOUT left UNFED (R104): a queued one loses its entry, whose sections outside the UNFED
islands become HELD; a TRANSFERRING one takes its state at the ending of its context. -/
def State.lockOut (unfed : FourSet) (s : State) (b : SecId) : State :=
  match (s.section b).state with
  | .transferring => s
  | .queued =>
    match s.requestOf b with
    | some e =>
      ((s.removeRequest e).setSectionStates ((FourSet.toList e.set).filter fun x => !unfed.get x) .held).setSectionState b
        .lockout
    | none => s.setSectionState b .lockout
  | .disarmed | .armed | .held | .lockout => s.setSectionState b .lockout

/-- The Section Controller's handling of the trip of an INCOMER or TIE (R104), with the trip notices (R149): to the contexts
that are to hear of it as the handling begins. -/
def State.dispatchTrip (s : State) (d : DevId) (slot : Slot) : State :=
  let unfed := s.tripUnfed d
  if s.board.responses.treatAsLoss then
    (s.tellEach (s.hearsTrip d unfed) (onTrip assign d unfed)).evaluate assign (some slot) (FourSet.toList unfed)
  else
    ((FourSet.toList unfed).foldl (State.lockOut unfed) s).tellEach (s.hearsTrip d unfed) (onTrip assign d unfed)

/-! ## Position words (R45, R46) -/

/-- The operation of the record is ended by a report of the position (R43). -/
def Device.completes (x : Device) (p : Position) : Option Cmd :=
  match x.op with
  | .inProgress c _ => if p = c.target then some c else none
  | .idle => none

/-- The record once a position word has been taken (R43, R45, R46). -/
def Device.report (x : Device) (w : Word) : Device :=
  { x with
    observed := positionOf w, tripped := flag w 2, available := flag w 3,
    op := if (x.completes (positionOf w)).isSome then .idle else x.op,
    trip := x.trip || (flag w 2 && !x.tripped) }

/-- A TIE reported OPEN clears the borrow ties that record its position (R9, R45). -/
def State.clearBorrows (s : State) (t : TieId) : State :=
  allFours.foldl (fun s b =>
    let x := s.section b
    if x.borrow = some t then s.setSection b { x with borrow := none } else s) s

/-- A feeder reported CLOSED leaves the withheld set of its section (R105). -/
def State.leaveWithheld (s : State) (d : DevId) (b : SecId) : State :=
  let x := s.section b
  s.setSection b { x with withheld := x.withheld.set d false }

/-- What a change of a device's observed position does to the sections (R9, R105). -/
def State.positionEffects (s : State) (d : DevId) (p : Position) : State :=
  match s.kindOf d, p with
  | .tie t, .opened => s.clearBorrows t
  | .feeder b, .closed => s.leaveWithheld d b
  | _, _ => s

/-- The kinds whose trip is handed to the Section Controller (R46). -/
def DeviceKind.tripsBoard : DeviceKind → Bool
  | .incomer _ _ | .tie _ => true
  | .feeder _ | .unused => false

/-- The Device Tracker takes a position word (R45); one that changes no field has no effect. The handling of a trip comes
before the other notices of the word, which R149 leaves open (the model's choice, log 15). -/
def State.takePosition (s : State) (d : DevId) (w : Word) : State :=
  let x := s.device d
  let y := x.report w
  if y = x then s
  else
    let moved := x.observed != y.observed
    let rose := y.tripped && !x.tripped
    let slot := s.recorder.index
    let closed := s.countedClosed d
    let t := s.setDevice d y
    let t := if moved then (t.positionEffects d y.observed).workOutDemands else t
    let t := if rose then t.raise (t.deviceIncident .protectionTrip d) else t
    let t := if rose && (s.kindOf d).tripsBoard then t.dispatchTrip d slot else t
    let t := t.tell (s.ownerContext d) fun k => onPosition assign k d x.observed closed rose
    match x.completes y.observed with
    | some c => t.tell (s.ownerContext d) fun k => onCompleted assign k d c
    | none => t

end Sys2Proof.Machine
end

