-- ==== Sys2Proof/Machine/Arbiter.lean ====
section
/-! DEFINITION. The Port Interface and the Memory Arbiter (R21, R22, R29): who is granted next, the class of an address,
plain reads, the granting of a held write, and the slot of a frame reaching memory (R173). -/

namespace Sys2Proof.Machine

/-! ## Ports (R21) -/

def requesterOf : PortId → Requester
  | .p => .p
  | .f => .f

def State.port (s : State) : PortId → Port
  | .p => s.pPort
  | .f => s.fPort

def State.setPort (s : State) (q : PortId) (x : Port) : State :=
  match q with
  | .p => { s with pPort := x }
  | .f => { s with fPort := x }

/-- The granted access is done: the port holds none, and its requester is the last granted (R29). -/
def State.endAccess (s : State) (q : PortId) : State :=
  { s.setPort q { s.port q with access := none } with lastGranted := requesterOf q }

/-- The access ends with read data (R21). -/
def State.endRead (s : State) (q : PortId) (w : Word) : State :=
  { s.setPort q { access := none, data := w } with lastGranted := requesterOf q }

/-! ## Classes (R22) -/

/-- The class of an address, by the guard page base and the working copy as they stand (R22). -/
def State.classify (s : State) (a : Word) : WordClass :=
  if inGuardPage s.store.page a then guardClass (guardOffset a)
  else
    match allDevices.find? fun d => s.hasRecord d && (s.entry d).command == a with
    | some d => .command d
    | none =>
      match allDevices.find? fun d => s.hasRecord d && (s.entry d).position == a with
      | some d => .position d
      | none => .other

/-! ## The rotation (R29, R32) -/

/-- A requester waits: an access presented, or a word for the Write-back Unit to write (R29, R32). -/
def State.waiting (s : State) : Requester → Bool
  | .p => s.pPort.access.isSome
  | .f => s.fPort.access.isSome
  | .w => !s.injections.isEmpty || !s.dirty.isEmpty

/-- The requesters in the order of the rotation, from the one after the last granted. -/
def rotation : Requester → List Requester
  | .p => [.f, .w, .p]
  | .f => [.w, .p, .f]
  | .w => [.p, .f, .w]

/-- The requester that the arbiter grants next (R29). -/
def State.nextGrant (s : State) : Option Requester := (rotation s.lastGranted).find? s.waiting

/-! ## Plain reads (R24, R25; log 3) -/

/-- The access is a read that changes no block: any read on the P-port, and a scanner read of anything but a command
word. -/
def State.plainRead (s : State) (q : PortId) (a : Access) : Bool :=
  match a.dir, q, s.classify a.addr with
  | .write, _, _ => false
  | .read, .f, .command _ => false
  | .read, _, _ => true

/-- The port that the arbiter grants next, when that is a port. -/
def State.nextPort (s : State) : Option PortId :=
  match s.nextGrant with
  | some .p => some .p
  | some .f => some .f
  | _ => none

/-- Carry the access of the port that is next, if it is a plain read: the memory word is returned. -/
def State.serveRead (s : State) : State :=
  match s.nextPort with
  | some q =>
    match (s.port q).access with
    | some a => if s.plainRead q a then s.endRead q (s.readImage a.addr) else s
    | none => s
  | none => s

/-- Carry the plain reads that stand ahead of a grant: at most one on each port. -/
def State.serveReads (s : State) : State := s.serveRead.serveRead

/-! ## Granting -/

/-- Grant a port the access it holds (R23): `f` says what the access does, and answers none where the row is not the one
that this access is; a row that is not the grant the arbiter makes changes nothing (log 1). -/
def State.grant (s : State) (q : PortId) (f : Access → State → Option State) : State :=
  let t := s.serveReads
  match (t.port q).access with
  | some a => if t.nextPort = some q then (f a t).getD s else s
  | none => s

/-- Grant a port the write it holds: `f` says what the write does to the block once the port is free. -/
def State.grantWrite (s : State) (q : PortId) (f : Access → State → Option State) : State :=
  s.grant q fun a t =>
    match a.dir with
    | .write => f a (t.endAccess q)
    | .read => none

/-- Grant the Write-back Unit (R32). -/
def State.grantWriteBack (s : State) (f : State → Option State) : State :=
  let t := s.serveReads
  if t.nextGrant = some .w then (f { t with lastGranted := .w }).getD s else s

/-! ## A frame word has reached memory (R173) -/

/-- The slot of a frame word. -/
def slotAt (off : Nat) : Slot := BitVec.ofNat 5 ((off - 0x400) / 8)

/-- After a report word has been stored: when it is the last dirty word of a marked slot, the marked context becomes FREE
(R126, R173). -/
def State.slotWritten (s : State) (off : Nat) : State :=
  if off < 0x400 then s
  else
    match s.waitingOn (slotAt off) with
    | some k =>
      if (slotOffsets (slotAt off)).any fun x => s.dirty.contains x then s
      else ((s.freeContext k).clearMark k).afterFreeing
    | none => s

/-- Store a report word once `s` has taken the clearings of a write that began in `before` (R28, R34): the words whose
images the clearings change are marked, and the word stored leaves the dirty set. -/
def State.storeCleared (s before : State) (off : Nat) : State :=
  let t := s.markChanged before
  ((t.storeReport off).slotWritten off).finish t

/-- An event that is due happens; one that is not changes nothing (log 1). -/
def State.event (s : State) (due : Bool) (f : State → State) : State := if due then (f s).finish s else s

end Sys2Proof.Machine
end

