-- ==== Sys2Proof/Machine/Traffic.lean ====
section
/-! DEFINITION. The rows of chapter 2 but for the control words: accesses presented and withdrawn, the grants of the two
ports, and the grants of the Write-back Unit. -/

namespace Sys2Proof.Machine

/-! ## Presenting (R21) -/

/-- ACCESS_PRESENT: a port that holds an access takes no second one (R21). -/
def execAccessPresent (q : PortId) (a : Access) (s : State) : Host.Outcome State Fault Refusal :=
  .next (match (s.port q).access with
    | some _ => s
    | none => s.setPort q { s.port q with access := some a })

/-- ACCESS_WITHDRAWN: the access that has not been granted goes, without effect (R21). -/
def execAccessWithdrawn (q : PortId) (s : State) : Host.Outcome State Fault Refusal :=
  .next (s.setPort q { s.port q with access := none })

/-! ## P-port writes (R24) -/

/-- What a P-port write to a command word of the code `code` does (R24, R61 to R63). -/
def commandWrite (code : Option Cmd) (act : DevId → Access → State → State) (a : Access) (t : State) : Option State :=
  match t.classify a.addr with
  | .command d => if commandCode a.data = code then some ((act d a t).finish t) else none
  | _ => none

/-- PROCESSOR_OPEN (R62, R52). -/
def execProcessorOpen (s : State) : Host.Outcome State Fault Refusal :=
  .next (s.grantWrite .p (commandWrite (some .opn) fun d a t => t.processorOpens d a))

/-- PROCESSOR_CLOSE (R63, R69 to R71). -/
def execProcessorClose (s : State) : Host.Outcome State Fault Refusal :=
  .next (s.grantWrite .p (commandWrite (some .cls) fun d a t => t.processorCloses d a))

/-- MALFORMED_COMMAND_WRITE (R61, R71). -/
def execMalformedCommandWrite (s : State) : Host.Outcome State Fault Refusal :=
  .next (s.grantWrite .p (commandWrite none fun d a t => t.raise (t.refusedWrite d .malformed a.addr a.data)))

/-- The frame of a write refused outright (R26). -/
def refusedOutright (detail : Detail) (d : Option DevId) (origin : Nat) (a : Access) : Incident :=
  { cls := .writeRefused, detail := some detail, dev := d, w5 := a.addr, w6 := a.data, w7 := originWord origin none }

/-- POSITION_WRITE (R26). -/
def execPositionWrite (s : State) : Host.Outcome State Fault Refusal :=
  .next (s.grantWrite .p fun a t =>
    match t.classify a.addr with
    | .position d => some ((t.raise (refusedOutright .positionWrite (some d) originP a)).finish t)
    | _ => none)

/-- CONFIGURATION_WRITE (R13): stored unchanged, and staged. -/
def execConfigurationWrite (s : State) : Host.Outcome State Fault Refusal :=
  .next (s.grantWrite .p fun a t =>
    match t.classify a.addr with
    | .configuration off =>
      some { t.storeWord a.addr a.data with store := { t.store with staged := t.store.staged.write off a.data } }
    | _ => none)

/-! ## P-port writes to report words (R28) -/

/-- The bits of the attention word that stay (R172). -/
def State.clearAttention (s : State) (w : Word) : State :=
  { s with recorder := { s.recorder with attention := s.recorder.attention &&& ~~~(w.setWidth 11) } }

/-- The flags of a device that a write clears (R28, R55): bits 8, 9, 10 of its status word. -/
def State.clearFlags (s : State) (d : DevId) (w : Word) : State :=
  s.updDevice d fun x =>
    { x with overrun := x.overrun && !flag w 8, fail := x.fail && !flag w 9, trip := x.trip && !flag w 10 }

/-- ATTENTION_CLEAR (R172). -/
def execAttentionClear (s : State) : Host.Outcome State Fault Refusal :=
  .next (s.grantWrite .p fun a t =>
    match t.classify a.addr with
    | .report off => if off = 0x202 then some ((t.clearAttention a.data).storeCleared t off) else none
    | _ => none)

/-- DEVICE_FLAG_CLEAR (R28, R55). -/
def execDeviceFlagClear (s : State) : Host.Outcome State Fault Refusal :=
  .next (s.grantWrite .p fun a t =>
    match t.classify a.addr with
    | .report off =>
      match indexAt 0x220 16 off with
      | some d => some ((t.clearFlags d a.data).storeCleared t off)
      | none => none
    | _ => none)

/-- REPORT_WORD_WRITE (R28): the current image is stored, whatever is written. -/
def execReportWordWrite (s : State) : Host.Outcome State Fault Refusal :=
  .next (s.grantWrite .p fun a t =>
    match t.classify a.addr with
    | .report off =>
      if off = 0x202 ∨ (indexAt 0x220 16 off).isSome then none else some (t.storeCleared t off)
    | _ => none)

/-! ## Other words (R24, R25, R27) -/

/-- A general control write that asks for nothing is stored as zero (R27; log 8). -/
def State.writeOther (t : State) (q : PortId) (a : Access) : Option State :=
  match t.classify a.addr, q with
  | .other, .p => some (t.storeWord a.addr a.data)
  | .other, .f => if inGuardPage t.store.page a.addr then none else some (t.storeWord a.addr a.data)
  | .control off, .p => if off = 0x100 ∧ field a.data 0 3 = 0 then some (t.storeWord a.addr 0) else none
  | _, _ => none

/-- OTHER_WORD_WRITE (R24, R25): stored unchanged. -/
def execOtherWordWrite (q : PortId) (s : State) : Host.Outcome State Fault Refusal :=
  .next (s.grantWrite q fun a t => t.writeOther q a)

/-! ## F-port grants (R25) -/

/-- What a scanner read of the command word of a device does (R25, R33, R40): the state, once the queued injection has
been judged or the command marked taken. -/
def State.scannerReads (s : State) (d : DevId) : State :=
  match s.queued d with
  | some e => s.carryInjection e true
  | none => s.updDevice d fun x => { x with pending := false }

/-- SCANNER_COMMAND_READ (R25, R33): the word returned is the word that memory then holds. -/
def execScannerCommandRead (s : State) : Host.Outcome State Fault Refusal :=
  .next (s.grant .f fun a t =>
    match a.dir, t.classify a.addr with
    | .read, .command d =>
      let u := t.scannerReads d
      some ((u.endRead .f (u.readImage a.addr)).finish t)
    | _, _ => none)

/-- POSITION_WORD (R25, R45): stored unchanged, and taken by the Device Tracker. -/
def execPositionWord (s : State) : Host.Outcome State Fault Refusal :=
  .next (s.grantWrite .f fun a t =>
    match t.classify a.addr with
    | .position d => some (((t.storeWord a.addr a.data).takePosition d a.data).finish t)
    | _ => none)

/-- The device that the frame of a refused scanner write names, where the write is refused (R25, R26). -/
def State.fieldRefused (t : State) (a : Access) : Option (Option DevId) :=
  if inGuardPage t.store.page a.addr then some none
  else
    match t.classify a.addr with
    | .command d => some (some d)
    | _ => none

/-- FIELD_WRITE (R26). -/
def execFieldWrite (s : State) : Host.Outcome State Fault Refusal :=
  .next (s.grantWrite .f fun a t =>
    match t.fieldRefused a with
    | some d => some ((t.raise (refusedOutright .fieldWrite d originF a)).finish t)
    | none => none)

/-! ## Write-back grants (R32) -/

/-- INJECTION_WRITE (R32): the head entry, judged at this grant. -/
def execInjectionWrite (s : State) : Host.Outcome State Fault Refusal :=
  .next (s.grantWriteBack fun t =>
    match t.injections with
    | e :: _ => some ((t.carryInjection e false).finish t)
    | [] => none)

/-- REPORT_WRITE_BACK (R32, R34): the lowest dirty word, with no injection queued. -/
def execReportWriteBack (s : State) : Host.Outcome State Fault Refusal :=
  .next (s.grantWriteBack fun t =>
    match t.injections, t.dirty with
    | [], off :: _ => some (((t.storeReport off).slotWritten off).finish t)
    | _, _ => none)

end Sys2Proof.Machine
end

