-- ==== Sys2Proof/Machine/Controls.lean ====
section
/-! DEFINITION. The control words (R27): COMMIT (R14), RESTART (R106), EOP_CLEAR (R166), ARM (R92), DISARM (R93), RELEASE
(R94) and the manual requests (R95). -/

namespace Sys2Proof.Machine

/-! ## General control -/

/-- COMMIT (R14): validate, then reject, or take the snapshot and apply it when R16 allows. The section, device, source and
context of the frame of a rejected copy are none, which R14 does not say (the model's choice, log 36). -/
def State.commit (s : State) : State :=
  match firstFailure s.store.page s.store.staged with
  | some off =>
    (s.setCommit .rejected (some off)).raise { cls := .configRejected, w5 := BitVec.ofNat 16 off }
  | none =>
    ({ s with store := { s.store with pendingCopy := some s.store.staged } }.setCommit .pending none).afterFreeing

/-- A device owned by a context returns to PROCESSOR, its deferred slot emptied without re-check (R49, R106). -/
def freeDevice (x : Device) : Device :=
  match x.owner with
  | .context _ => { x with owner := .processor, deferred := none }
  | .processor | .emergency => x

/-- Steps 1 to 4 of R106. -/
def State.restartBlocks (s : State) : State :=
  { s with
    contexts := Three.fill Context.blank, freed := Three.fill false,
    recorder := { s.recorder with marks := Three.fill none },
    devices := Sixteen.ofFn fun d => freeDevice (s.devices.get d),
    sync := { hold := none, claims := [], due := [] },
    queue := [], sections := Four.fill Section.reset }

/-- RESTART (R106); while UNCONFIGURED it only marks the report words. -/
def State.restart (s : State) : State :=
  let t := if s.guarding then (s.restartBlocks.workOutDemands).afterFreeing else s
  t.markAll (statusOffsets ++ frameOffsets)

/-- An EMERGENCY-owned device returns to PROCESSOR (R166). -/
def State.leaveEmergency (s : State) (d : DevId) : State :=
  if s.hasRecord d && (s.device d).owner == .emergency then s.setOwner d .processor else s

/-- EOP_CLEAR (R166). -/
def State.eopClear (s : State) : State :=
  if s.guarding && s.latch.isSet then
    assign (allDevices.foldl State.leaveEmergency { s with latch := { s.latch with isSet := false } })
  else s

/-- What a general control write does (R27): COMMIT, then RESTART, then EOP_CLEAR, as its bits ask, each to its end before
the next, as in separate accesses. -/
def State.generalControl (s : State) (w : Word) : State :=
  let s := s.event (flag w 0) State.commit
  let s := s.event (flag w 1) State.restart
  s.event (flag w 2) State.eopClear

/-- A write to the control word at an offset, stored as zero and handed to its block (R27). -/
def controlWrite (off : Nat) (f : Access → State → State) (a : Access) (t : State) : Option State :=
  match t.classify a.addr with
  | .control o => if o = off then some (f a (t.storeWord a.addr 0)) else none
  | _ => none

/-- A write to the control word at an offset that its block takes as one event. -/
def controlEvent (off : Nat) (f : Access → State → State) : Access → State → Option State :=
  controlWrite off fun a t => (f a t).finish t

/-- A general control write whose bit i is one (R27; log 8). -/
def generalWrite (i : Nat) (a : Access) (t : State) : Option State :=
  if flag a.data i then controlWrite 0x100 (fun a t => t.generalControl a.data) a t else none

/-- COMMIT (R14). -/
def execCommit (s : State) : Host.Outcome State Fault Refusal := .next (s.grantWrite .p (generalWrite 0))

/-- RESTART (R106). -/
def execRestart (s : State) : Host.Outcome State Fault Refusal := .next (s.grantWrite .p (generalWrite 1))

/-- EOP_CLEAR (R166). -/
def execEopClear (s : State) : Host.Outcome State Fault Refusal := .next (s.grantWrite .p (generalWrite 2))

/-! ## ARM, DISARM, RELEASE -/

/-- The sections whose bits are one, ascending (06, 6.2). -/
def namedSections (w : Word) : List SecId := allFours.filter fun b => flag w b.val

/-- The frame of a section that ARM refuses (R92). -/
def armRefused (b : SecId) (a : Access) : Incident :=
  { cls := .writeRefused, detail := some .armRefused, sec := some b, w5 := a.addr, w6 := a.data,
    w7 := originWord originP none }

/-- ARM is open: GUARDING with the latch clear (R92). -/
def State.armOpen (s : State) : Bool := s.guarding && !s.latch.isSet

/-- A section that ARM may arm. -/
def State.armable (s : State) (b : SecId) : Bool :=
  (s.section b).state == .disarmed || (s.section b).state == .held

/-- One named section of an ARM write (R92). -/
def State.armOne (a : Access) (s : State) (b : SecId) : State :=
  if (s.section b).state = .lockout then s.raise (armRefused b a)
  else if s.armable b then (if s.armOpen then s.setSectionState b .armed else s.raise (armRefused b a))
  else s

/-- An ARM write (R92). -/
def State.arm (s : State) (a : Access) : State :=
  let bs := namedSections a.data
  let made := bs.filter fun b => s.armOpen && s.armable b
  (bs.foldl (State.armOne a) s).evaluate assign none made

/-- ARM (R92). -/
def execArm (s : State) : Host.Outcome State Fault Refusal :=
  .next (s.grantWrite .p (controlEvent 0x101 fun a t => t.arm a))

/-- The sections named in a word, as a set. -/
def namedSet (w : Word) : FourSet := Four.ofFn fun b => flag w b.val

/-- The sections of a context's set that a DISARM write names (R93). -/
def State.namedIn (s : State) (k : CtxId) (w : Word) : FourSet :=
  Four.ofFn fun b => (s.context k).set.get b && (namedSet w).get b

/-- One named section of a DISARM write (R93). -/
def State.disarmOne (w : Word) (s : State) (b : SecId) : State :=
  match (s.section b).state with
  | .armed | .held => s.setSectionState b .disarmed
  | .queued =>
    match s.requestOf b with
    | some e => ((s.removeRequest e).setSectionStates (FourSet.toList e.set) .armed).setSectionState b .disarmed
    | none => s.setSectionState b .disarmed
  | .transferring =>
    match s.holder b with
    | some k => onDisarm assign k (s.namedIn k w) s
    | none => s
  | .disarmed | .lockout => s

/-- A DISARM write (R93): the sections that it leaves ARMED in place of QUEUED are evaluated at the end (log 24). -/
def State.disarm (s : State) (w : Word) : State :=
  if s.guarding then
    let t := (namedSections w).foldl (State.disarmOne w) s
    t.evaluate assign none
      (allFours.filter fun b => (s.section b).state == .queued && (t.section b).state == .armed)
  else s

/-- DISARM (R93). -/
def execDisarm (s : State) : Host.Outcome State Fault Refusal :=
  .next (s.grantWrite .p (controlEvent 0x102 fun a t => t.disarm a.data))

/-- One named section of a RELEASE write (R94). -/
def State.releaseOne (s : State) (b : SecId) : State :=
  if (s.section b).state = .lockout then s.setSectionState b .disarmed else s

/-- A RELEASE write (R94). -/
def State.releaseSections (s : State) (w : Word) : State :=
  if s.guarding then (namedSections w).foldl State.releaseOne s else s

/-- RELEASE (R94). -/
def execRelease (s : State) : Host.Outcome State Fault Refusal :=
  .next (s.grantWrite .p (controlEvent 0x103 fun a t => t.releaseSections a.data))

/-! ## Manual requests -/

/-- The transition of a manual request word, bit 1. -/
def manualTransition (w : Word) : Transition := if flag w 1 then .closed else .opn

/-- The route of a manual request word, bits 7 to 4. -/
def manualRoute (w : Word) : Option Route := routeOf (field w 4 4)

/-- The request of a manual word for section b (R95). -/
def State.manualEntry (s : State) (b : SecId) (w : Word) : Request :=
  let set := s.returnSet b
  { lead := set.lowest, set := set, kind := .manual, transition := manualTransition w, target := manualRoute w,
    cause := none, offered := w }

/-- A manual request is refused (R95). -/
def State.manualRefused (s : State) (b : SecId) (w : Word) : Bool :=
  let set := s.returnSet b
  s.manualBad set (manualTransition w) (manualRoute w) ||
    (FourSet.toList set).any fun x => (s.section x).state != .armed

/-- A write to the manual request word of section b (R95). -/
def State.manual (s : State) (b : SecId) (a : Access) : State :=
  if flag a.data 0 then
    if s.manualRefused b a.data then s.raise (requestRefused b a.addr a.data)
    else s.placeManual assign (s.manualEntry b a.data)
  else s

/-- The section of a manual request word's offset. -/
def manualSection (off : Nat) : Option SecId := indexAt 0x104 4 off

/-- MANUAL_REQUEST (R95). -/
def execManualRequest (s : State) : Host.Outcome State Fault Refusal :=
  .next (s.grantWrite .p fun a t =>
    match t.classify a.addr with
    | .control off =>
      match manualSection off with
      | some b => some (((t.storeWord a.addr 0).manual b a).finish t)
      | none => none
    | _ => none)

end Sys2Proof.Machine
end

