-- ==== Sys2Proof/Machine/Plant.lean ====
section
/-! DEFINITION. The rows of the Source Monitor and of the timers of devices and contexts: filtered health and lock levels
(chapter 5, R98), and the expiries (R44, R78 to R85, R114, R117, R122, R139). An expiry is due at the ms count its timer
names (R176). -/

namespace Sys2Proof.Machine

/-! ## Filters (R76) -/

/-- The filtered level changes at this tick. -/
def Filter.turn (x : Filter) : Filter := { x with level := !x.level, change := false }

/-- A change of the filtered level, to `level`, is met at this tick. -/
def Filter.turnsTo (x : Filter) (level : Bool) : Bool := x.change && x.level != level

/-! ## Sources (R78 to R83) -/

def State.updSource (s : State) (n : SrcId) (f : Source → Source) : State := s.setSource n (f (s.source n))

/-- The frame of a source incident (R81). -/
def State.sourceIncident (s : State) (cls : IncidentClass) (n : SrcId) (w5 : Word) : Incident :=
  { cls := cls, sec := (s.incomerOf n).bind s.frameSection, dev := s.incomerOf n, src := some n, w5 := w5 }

/-- Tell the ACTIVE contexts that a source has entered FAILED (R82 step 1, R144). -/
def State.tellLost (s : State) (n : SrcId) : State := s.tellEach s.active (onSourceLost assign n)

/-- The dip length in ms, capped (R78). -/
def State.dipLength (s : State) (n : SrcId) : Word := BitVec.ofNat 16 (min (s.ms - (s.source n).dipStart).toNat 65535)

/-- The filtered health level of a source falls (R78, R80). -/
def State.healthFalls (s : State) (n : SrcId) : State :=
  let t := s.updSource n fun x => { x with health := x.health.turn }
  match (t.source n).state with
  | .available =>
    t.updSource n fun x => { x with state := .dip, ride := some (t.after (t.sourceEntry n).rideThrough), dipStart := t.ms }
  | .proving => (t.updSource n fun x => { x with state := .failed, stab := none }).tellLost n
  | .failed | .dip => t

/-- The filtered health level of a source rises (R78, R80). -/
def State.healthRises (s : State) (n : SrcId) : State :=
  let t := s.updSource n fun x => { x with health := x.health.turn }
  match (t.source n).state with
  | .failed => t.updSource n fun x => { x with state := .proving, stab := some (t.after (t.sourceEntry n).stability) }
  | .dip =>
    (t.updSource n fun x => { x with state := .available, ride := none }).raise
      (t.sourceIncident .sourceDip n (t.dipLength n))
  | .proving | .available => t

/-- The ride-through of a source expires in DIP (R79, R82). -/
def State.rideExpires (s : State) (n : SrcId) : State :=
  let slot := s.recorder.index
  let t := (s.updSource n fun x => { x with state := .failed, ride := none }).raise (s.sourceIncident .sourceLoss n 0)
  let t := t.tellLost n
  if t.board.responses.lossTransfer then t.evaluate assign (some slot) (t.fedIslands n) else t

/-- The leads of the islands FED by an AVAILABLE source (R83). -/
def State.wellFedIslands (s : State) : List SecId := s.islandLeads.filter fun b => (s.fedAvailable (s.island b)).isSome

/-- The stability time of a source expires in PROVING (R80, R83). -/
def State.stabilityExpires (s : State) (n : SrcId) : State :=
  let slot := s.recorder.index
  let t := (s.updSource n fun x => { x with state := .available, stab := none }).raise (s.sourceIncident .sourceReturn n 0)
  let t := t.tellEach t.awaitsSource (onSourceReturned assign)
  if t.board.responses.returnReturn then
    t.wellFedIslands.foldl (fun s b => s.evaluateReturn assign b (some slot)) t
  else t

/-- HEALTH_LEVEL_FALL (R78, R80). -/
def execHealthLevelFall (n : SrcId) (s : State) : Host.Outcome State Fault Refusal :=
  .next (s.event ((s.source n).health.turnsTo false) fun s => s.healthFalls n)

/-- HEALTH_LEVEL_RISE (R78, R80). -/
def execHealthLevelRise (n : SrcId) (s : State) : Host.Outcome State Fault Refusal :=
  .next (s.event ((s.source n).health.turnsTo true) fun s => s.healthRises n)

/-- RIDE_THROUGH_EXPIRY (R79). -/
def execRideThroughExpiry (n : SrcId) (s : State) : Host.Outcome State Fault Refusal :=
  .next (s.event ((s.source n).state == .dip && s.due (s.source n).ride) fun s => s.rideExpires n)

/-- STABILITY_EXPIRY (R80). -/
def execStabilityExpiry (n : SrcId) (s : State) : Host.Outcome State Fault Refusal :=
  .next (s.event ((s.source n).state == .proving && s.due (s.source n).stab) fun s => s.stabilityExpires n)

/-- COOL_DOWN_EXPIRY (R85). -/
def execCoolDownExpiry (n : SrcId) (s : State) : Host.Outcome State Fault Refusal :=
  .next (s.event (s.due (s.source n).cool) fun s => s.updSource n fun x => { x with cool := none })

/-! ## Locks (R77, R98, R100, R154) -/

def State.turnLock (s : State) (b : SecId) : State := { s with locks := s.locks.set b (s.locks.get b).turn }

/-- The filtered lock level of a section rises (R98, R100, R154). -/
def State.lockRises (s : State) (b : SecId) : State :=
  let t := s.turnLock b
  match (t.section b).state with
  | .armed => t.evaluate assign none [b]
  | .queued =>
    match t.requestOf b with
    | some e => t.withdrawHeld e
    | none => t
  | .transferring =>
    match t.holder b with
    | some k => onLock assign k t
    | none => t
  | .disarmed | .held | .lockout => t

/-- LOCK_LEVEL_RISE. -/
def execLockLevelRise (b : SecId) (s : State) : Host.Outcome State Fault Refusal :=
  .next (s.event ((s.locks.get b).turnsTo true) fun s => s.lockRises b)

/-- LOCK_LEVEL_FALL (R98). -/
def execLockLevelFall (b : SecId) (s : State) : Host.Outcome State Fault Refusal :=
  .next (s.event ((s.locks.get b).turnsTo false) fun s => (s.turnLock b).evaluate assign none [b])

/-! ## Devices (R44) -/

/-- The command whose operation has reached its deadline. -/
def State.deadlineDue (s : State) (d : DevId) : Option Cmd :=
  match (s.device d).op with
  | .inProgress c t => if s.hasRecord d && t == s.ms then some c else none
  | .idle => none

/-- OPERATE_DEADLINE_EXPIRY (R44). -/
def execOperateDeadlineExpiry (d : DevId) (s : State) : Host.Outcome State Fault Refusal :=
  .next (match s.deadlineDue d with
    | some c => (s.missDeadline d c).finish s
    | none => s)

/-! ## Phase timers (R127) -/

/-- The phase timer of an ACTIVE context is of a kind and expires now. -/
def State.timerDue (s : State) (k : CtxId) (t : TimerKind) : Bool :=
  s.active k && (s.context k).timer == some (t, s.ms)

def State.stopTimer (s : State) (k : CtxId) : State := s.updContext k fun c => { c with timer := none }

/-- The start limit expires: the awaited source's route is excluded, and SELECT runs (R114). That is no return to SELECT by
R143, so no queued CLOSE is cancelled (the model's choice, log 37). -/
def State.startLimitExpires (s : State) (k : CtxId) : State :=
  enterSelect assign k ((s.stopTimer k).updContext k fun c => c.exclude (c.awaited.map .source))

/-- START_LIMIT_EXPIRY (R114). -/
def execStartLimitExpiry (k : CtxId) (s : State) : Host.Outcome State Fault Refusal :=
  .next (s.event (s.timerDue k .startLimit && (s.context k).phase == .awaitSource) fun s => s.startLimitExpires k)

/-- DEAD_BUS_EXPIRY (R117). -/
def execDeadBusExpiry (k : CtxId) (s : State) : Host.Outcome State Fault Refusal :=
  .next (s.event (s.timerDue k .deadBus && (s.context k).phase == .deadWait) fun s =>
    enterClosing assign k (s.stopTimer k))

/-- RESTORE_STAGGER_EXPIRY (R122): in CLOSING nothing waits for it yet. -/
def execRestoreStaggerExpiry (k : CtxId) (s : State) : Host.Outcome State Fault Refusal :=
  .next (s.event (s.timerDue k .stagger) fun s =>
    if (s.context k).phase = .restoring then restoreNext assign k (s.stopTimer k) else s.stopTimer k)

/-- OVERLAP_EXPIRY (R139). -/
def execOverlapExpiry (k : CtxId) (s : State) : Host.Outcome State Fault Refusal :=
  .next (s.event (s.timerDue k .overlap && (s.context k).phase == .openingOld) fun s =>
    endOverlap assign k true (s.stopTimer k))

end Sys2Proof.Machine
end

