-- ==== Sys2Proof/Machine/Selector.lean ====
section
/-! DEFINITION. The rows of the Sync Selector (chapter 8): the filtered SYNC level, the settle, the sync window, the
grant. -/

namespace Sys2Proof.Machine

/-- The holder's selection changes, and a leave that it gives is told (R131, R135). -/
def State.changeHold (s : State) (old new : SyncHold) : State :=
  let t := { s with sync := { s.sync with hold := some new } }
  if new.leave && !old.leave then onLeave assign new.context new.running t else t

/-- SYNC_LEVEL_CHANGE (R131). -/
def execSyncLevelChange (s : State) : Host.Outcome State Fault Refusal :=
  .next (match s.sync.hold with
    | some h => s.event h.filter.change fun s => s.changeHold h { h with filter := h.filter.turn }
    | none => s)

/-- SETTLE_EXPIRY (R131). -/
def execSettleExpiry (s : State) : Host.Outcome State Fault Refusal :=
  .next (match s.sync.hold with
    | some h => s.event (s.due h.settle) fun s => s.changeHold h { h with settle := none }
    | none => s)

/-- The frame of a sync timeout (R132). -/
def State.syncIncident (s : State) (h : SyncHold) : Incident :=
  let c := s.context h.context
  { cls := .syncTimeout, sec := some c.lead, dev := c.routeDevice, src := some h.target, ctx := some h.context,
    cause := c.cause }

/-- The sync window expires (R132, R136). -/
def State.windowExpires (s : State) (h : SyncHold) : State :=
  onTimeout assign h.context ((s.raise (s.syncIncident h)).releaseSync)

/-- SYNC_WINDOW_EXPIRY (R132). -/
def execSyncWindowExpiry (s : State) : Host.Outcome State Fault Refusal :=
  .next (match s.sync.hold with
    | some h => s.event (h.window == s.ms) fun s => s.windowExpires h
    | none => s)

/-- The pair of a context as the board stands (R130): the running source and the target, or none. -/
def State.syncPair (s : State) (k : CtxId) : Option (SrcId × SrcId) :=
  let c := s.context k
  match s.fedAvailable c.set, c.target with
  | some f, some (.source n) => if f = n then none else some (f, n)
  | _, _ => none

/-- The holder that a grant makes (R130). -/
def State.newHold (s : State) (k : CtxId) (running target : SrcId) : SyncHold :=
  { context := k, running := running, target := target, filter := .low, settle := some (s.after s.board.settle),
    window := s.after s.board.window }

/-- Grant the head of the claim queue, if this tick found its claim waiting; a head without a pair goes to SELECT, and the
new head is tried (R130; log 2). The first argument bounds the tries: three contexts can claim. -/
def grantHead : Nat → State → State
  | 0, s => s
  | n + 1, s =>
    match s.sync.claims with
    | [] => s
    | k :: ks =>
      if s.sync.due.contains k then
        let t := { s with sync := { s.sync with claims := ks, due := s.sync.due.filter (· != k) } }
        match t.syncPair k with
        | some (f, g) =>
          { t.updContext k (fun c => { c with claim := .held }) with
            sync := { hold := some (t.newHold k f g), claims := ks, due := [] } }
        | none =>
          grantHead n (returnToSelect assign k none false (t.updContext k fun c => { c with claim := .none }))
      else s

/-- SYNC_GRANT (R130): a grant is open while the selector has no holder and a claim that this tick found still waits. -/
def execSyncGrant (s : State) : Host.Outcome State Fault Refusal :=
  .next (s.event (!s.sync.due.isEmpty && s.sync.hold.isNone) (grantHead Config.takingDepth))

end Sys2Proof.Machine
end

