-- ==== Sys2Proof/Machine/Emergency.lean ====
section
/-! DEFINITION. The rows of the Emergency Latch (chapter 10): the filtered EOP level, the seeding, the setting of the
latch. -/

namespace Sys2Proof.Machine

/-- Step 1 of R160: the holder is released and every claim goes (R133). -/
def State.clearSync (s : State) : State :=
  let t := s.releaseSync
  let t := t.sync.claims.foldl (fun s k => s.updContext k fun c => { c with claim := .none }) t
  { t with sync := { hold := none, claims := [], due := [] } }

/-- Step 3 of R160: an ACTIVE context ends EMERGENCY (R162). -/
def State.endEmergency (s : State) (k : CtxId) : State :=
  if s.active k then endContext assign k .emergency FourSet.none s else s

/-- Step 4 of R160: the queue is emptied, and every section but one in LOCKOUT is DISARMED (R163). -/
def State.disarmAll (s : State) : State :=
  (s.setQueue []).setSectionStates (allFours.filter fun b => (s.section b).state != .lockout) .disarmed

/-- The latch is set (R160 to R163). -/
def State.setLatch (s : State) : State :=
  let t := ({ s with latch := { s.latch with isSet := true } }).raise { cls := .emergency }
  let t := allDevices.foldl State.seize t.clearSync
  (allContexts.foldl State.endEmergency t).disarmAll

/-- A change of the filtered level to `level` is an edge (R159). -/
def State.isEdge (s : State) (level : Bool) : Bool := if level then s.board.eopRise else s.board.eopFall

/-- The filtered EOP level changes (R159). -/
def State.eopChanges (s : State) : State :=
  let f := s.latch.filter.turn
  let t := { s with latch := { s.latch with filter := f } }
  if s.isEdge f.level && !s.latch.isSet then t.setLatch else t

/-- EOP_FILTERED_CHANGE (R159). -/
def execEopFilteredChange (s : State) : Host.Outcome State Fault Refusal :=
  .next (s.event s.latch.filter.change State.eopChanges)

/-- EOP_FILTER_SEED (R159): at the first tick after the first application the level takes the line, without an edge. -/
def execEopFilterSeed (s : State) : Host.Outcome State Fault Refusal :=
  .next (s.event (s.latch.seed == .due) fun s =>
    { s with latch := { s.latch with filter := { level := s.pins.eop, count := 0, change := false }, seed := .seeded } })

end Sys2Proof.Machine
end

