-- ==== Sys2Proof/Machine/Clock.lean ====
section
/-! DEFINITION. The 1 ms tick (R176) with the sampling of the lines (R76, R77, R131, R159), and hardware reset (R20,
R36). -/

namespace Sys2Proof.Machine

/-! ## Hardware reset -/

/-- HARDWARE_RESET: every block takes its reset values and the strap is sampled; memory is kept (R20, R36). -/
def execHardwareReset (strap : BitVec 4) (s : State) : Host.Outcome State Fault Refusal :=
  .next { State.reset with
    store := { State.reset.store with page := strap }, image := s.image, pending := s.pending }

/-! ## Events left over (log 2) -/

/-- The state that a row answers; no row stops. -/
def stateOf (s : State) : Host.Outcome State Fault Refusal → State
  | .next t => t
  | .fault _ | .refused _ => s

/-- Carry out an event row, once for each index of a list. -/
def eachOf {α : Type} (xs : List α) (row : α → State → Host.Outcome State Fault Refusal) (s : State) : State :=
  xs.foldl (fun s x => stateOf s (row x s)) s

/-- Carry out a row. -/
def once (row : State → Host.Outcome State Fault Refusal) (s : State) : State := stateOf s (row s)

/-- The changes of filtered levels that the last tick met and that no command has carried out. -/
def State.leftChanges (s : State) : State :=
  let s := once execEopFilterSeed s
  let s := eachOf allFours execHealthLevelFall (eachOf allFours execHealthLevelRise s)
  let s := eachOf allFours execLockLevelFall (eachOf allFours execLockLevelRise s)
  once execSyncLevelChange (once execEopFilteredChange s)

/-- The expiries of the millisecond that no command has carried out. -/
def State.leftExpiries (s : State) : State :=
  let s := eachOf allFours execRideThroughExpiry s
  let s := eachOf allFours execStabilityExpiry s
  let s := eachOf allFours execCoolDownExpiry s
  let s := eachOf allDevices execOperateDeadlineExpiry s
  let s := eachOf allContexts execStartLimitExpiry s
  let s := eachOf allContexts execDeadBusExpiry s
  let s := eachOf allContexts execRestoreStaggerExpiry s
  let s := once execSyncWindowExpiry (once execSettleExpiry s)
  eachOf allContexts execOverlapExpiry s

/-- Every event of the millisecond that no command has carried out, before the next tick (log 2). -/
def State.leftEvents (s : State) : State := once execSyncGrant s.leftChanges.leftExpiries

/-! ## Sampling -/

/-- One sample of a line through a filter of length n (R76): the level changes, by an event of its own, when the count of
differing samples reaches n. -/
def Filter.sample (x : Filter) (n : Nat) (line : Bool) : Filter :=
  if line = x.level then { x with count := 0, change := false }
  else if n ≤ x.count.toNat + 1 then { x with count := 0, change := true }
  else { x with count := x.count + 1, change := false }

/-- The health lines are sampled (R76). -/
def State.sampleHealth (s : State) (sh : BitVec 4) : Four Source :=
  Four.ofFn fun n =>
    let x := s.source n
    { x with health := x.health.sample (s.sourceEntry n).filterLength (sh.getLsbD n.val) }

/-- The lock lines are sampled (R77). -/
def State.sampleLocks (s : State) (lk : BitVec 4) : Four Filter :=
  Four.ofFn fun b => (s.locks.get b).sample 4 (lk.getLsbD b.val)

/-- EOP is sampled once the filter has been seeded; the tick that seeds it is the first after the first application
(R159). -/
def Latch.sample (x : Latch) (eop : Bool) : Latch :=
  match x.seed with
  | .seeded => { x with filter := x.filter.sample 3 eop }
  | .waiting => { x with seed := .due }
  | .notApplied | .due => x

/-- SYNC is sampled while there is a holder (R131); without one, the claims that wait may be granted at this tick (R130).
A tick samples before it grants, so a grant's first sample is at the next tick (the model's choice, log 30). -/
def SyncSelector.sample (x : SyncSelector) (sync : Bool) : SyncSelector :=
  match x.hold with
  | some h => { x with hold := some { h with filter := h.filter.sample 2 sync }, due := [] }
  | none => { x with due := x.claims }

/-- The samples of a tick, while GUARDING (R19, R76, R77, R159). -/
def State.sampleLines (s : State) (sh lk : BitVec 4) (eop sync : Bool) : State :=
  if s.guarding then
    { s with sources := s.sampleHealth sh, locks := s.sampleLocks lk, latch := s.latch.sample eop,
             sync := s.sync.sample sync }
  else s

/-- MILLISECOND_TICK (R176): the ms count advances, and the lines are sampled. -/
def execMillisecondTick (sh lk : BitVec 4) (eop sync : Bool) (s : State) : Host.Outcome State Fault Refusal :=
  let t := s.leftEvents
  .next (({ t with ms := t.ms + 1, pins := { sh := sh, lk := lk, eop := eop, sync := sync } }).sampleLines
    sh lk eop sync)

end Sys2Proof.Machine
end

