-- ==== Sys2Proof/Machine/Dispatch.lean ====
section
/-! DEFINITION. One arm for each row of the table. -/

namespace Sys2Proof.Machine

def exec (i : Instr) (s : State) : Host.Outcome State Fault Refusal :=
  match i with
  | .hardwareReset strap => Sys2Proof.Machine.execHardwareReset strap s
  | .accessPresent port a => Sys2Proof.Machine.execAccessPresent port a s
  | .accessWithdrawn port => Sys2Proof.Machine.execAccessWithdrawn port s
  | .processorOpen => Sys2Proof.Machine.execProcessorOpen s
  | .processorClose => Sys2Proof.Machine.execProcessorClose s
  | .malformedCommandWrite => Sys2Proof.Machine.execMalformedCommandWrite s
  | .positionWrite => Sys2Proof.Machine.execPositionWrite s
  | .configurationWrite => Sys2Proof.Machine.execConfigurationWrite s
  | .commit => Sys2Proof.Machine.execCommit s
  | .restart => Sys2Proof.Machine.execRestart s
  | .eopClear => Sys2Proof.Machine.execEopClear s
  | .arm => Sys2Proof.Machine.execArm s
  | .disarm => Sys2Proof.Machine.execDisarm s
  | .release => Sys2Proof.Machine.execRelease s
  | .manualRequest => Sys2Proof.Machine.execManualRequest s
  | .attentionClear => Sys2Proof.Machine.execAttentionClear s
  | .deviceFlagClear => Sys2Proof.Machine.execDeviceFlagClear s
  | .reportWordWrite => Sys2Proof.Machine.execReportWordWrite s
  | .otherWordWrite port => Sys2Proof.Machine.execOtherWordWrite port s
  | .scannerCommandRead => Sys2Proof.Machine.execScannerCommandRead s
  | .positionWord => Sys2Proof.Machine.execPositionWord s
  | .fieldWrite => Sys2Proof.Machine.execFieldWrite s
  | .injectionWrite => Sys2Proof.Machine.execInjectionWrite s
  | .reportWriteBack => Sys2Proof.Machine.execReportWriteBack s
  | .healthLevelFall n => Sys2Proof.Machine.execHealthLevelFall n s
  | .healthLevelRise n => Sys2Proof.Machine.execHealthLevelRise n s
  | .lockLevelRise b => Sys2Proof.Machine.execLockLevelRise b s
  | .lockLevelFall b => Sys2Proof.Machine.execLockLevelFall b s
  | .eopFilteredChange => Sys2Proof.Machine.execEopFilteredChange s
  | .eopFilterSeed => Sys2Proof.Machine.execEopFilterSeed s
  | .syncLevelChange => Sys2Proof.Machine.execSyncLevelChange s
  | .syncGrant => Sys2Proof.Machine.execSyncGrant s
  | .rideThroughExpiry n => Sys2Proof.Machine.execRideThroughExpiry n s
  | .stabilityExpiry n => Sys2Proof.Machine.execStabilityExpiry n s
  | .coolDownExpiry n => Sys2Proof.Machine.execCoolDownExpiry n s
  | .operateDeadlineExpiry d => Sys2Proof.Machine.execOperateDeadlineExpiry d s
  | .startLimitExpiry k => Sys2Proof.Machine.execStartLimitExpiry k s
  | .deadBusExpiry k => Sys2Proof.Machine.execDeadBusExpiry k s
  | .restoreStaggerExpiry k => Sys2Proof.Machine.execRestoreStaggerExpiry k s
  | .settleExpiry => Sys2Proof.Machine.execSettleExpiry s
  | .syncWindowExpiry => Sys2Proof.Machine.execSyncWindowExpiry s
  | .overlapExpiry k => Sys2Proof.Machine.execOverlapExpiry k s
  | .millisecondTick sh lk eop sync => Sys2Proof.Machine.execMillisecondTick sh lk eop sync s

end Sys2Proof.Machine
end

