-- ==== Sys2Proof/Safety.lean ====
section
/-! DEFINITION. What it is for a state of the block to be sound, and the words the statements are written in. -/

namespace Sys2Proof.Machine

/-! ## Structure that every step keeps -/

/-- The dirty set holds report words only, each once, in ascending order (R34). -/
def State.dirtyOrdered (s : State) : Prop :=
  s.dirty.Pairwise (· < ·) ∧ ∀ off ∈ s.dirty, isReportOffset off = true

/-- The injection queue holds at most one entry for any device, and entries for devices with a record only (R17, R30). -/
def State.oneInjectionEach (s : State) : Prop :=
  (s.injections.Pairwise fun a b => a.device ≠ b.device) ∧ ∀ e ∈ s.injections, s.hasRecord e.device = true

/-- Every word memory is in its canonical form (log 4). -/
def State.canonical (s : State) : Prop :=
  s.image.wf = true ∧ s.store.staged.wf = true ∧ s.recorder.log.wf = true ∧
    ∀ m, s.store.pendingCopy = some m → m.wf = true

/-- The words of the devices of a working copy lie outside the guard page, and no two of them are one word (R15, R22). -/
def Board.outside (b : Board) (page : BitVec 4) : Prop :=
  ∀ d, (b.devices.get d).kind ≠ .unused →
    inGuardPage page (b.devices.get d).command = false ∧ inGuardPage page (b.devices.get d).position = false ∧
      ∀ e, (b.devices.get e).kind ≠ .unused → (b.devices.get d).command ≠ (b.devices.get e).position ∧
        (d ≠ e → (b.devices.get d).command ≠ (b.devices.get e).command ∧
          (b.devices.get d).position ≠ (b.devices.get e).position)

/-- The working copy and the copy that waits have passed validation, as far as their addresses go (R15, R22). -/
def State.addressesOutside (s : State) : Prop :=
  s.board.outside s.store.page ∧ ∀ m, s.store.pendingCopy = some m → (boardOf m).outside s.store.page

/-- A GENERATOR whose incomer is observed CLOSED has run demand, so that its RQ line is high (R84, R86). -/
def State.demandsMet (s : State) : Prop :=
  ∀ n, (s.sourceEntry n).generator = true → s.incomerClosed n = true → (s.source n).demand = true

/-- While the latch is set, every emergency-open device is owned by EMERGENCY (R160). -/
def State.latchHolds (s : State) : Prop :=
  s.latch.isSet = true → ∀ d, s.hasRecord d = true → (s.entry d).emergencyOpen = true →
    (s.device d).owner = .emergency

/-- What every operation of the block keeps. -/
structure State.Sound (s : State) : Prop where
  dirtyOrdered : s.dirtyOrdered
  oneInjectionEach : s.oneInjectionEach
  canonical : s.canonical
  addressesOutside : s.addressesOutside
  demandsMet : s.demandsMet
  latchHolds : s.latchHolds

/-- No context freed by a frame is still to be acted on: so it is between events (R126). -/
abbrev State.settled (s : State) : Prop := s.freed = Three.fill false

/-- Memory holds the image of every status word that is not dirty (R34, R179). -/
def State.statusCurrent (s : State) : Prop :=
  ∀ off ∈ statusOffsets, off ∉ s.dirty → s.readImage (guardAddress s.store.page off) = s.reportImage off

/-- The invariant of the block between events. -/
structure State.Inv (s : State) : Prop where
  sound : s.Sound
  settled : s.settled
  statusCurrent : s.statusCurrent

/-! ## Words for the statements -/

/-- The arbiter grants port q next, once the plain reads ahead of it are carried, and it holds the write a (R21, R29). -/
abbrev State.grantsWrite (s : State) (q : PortId) (a : Access) : Prop :=
  s.serveReads.nextPort = some q ∧ (s.serveReads.port q).access = some a ∧ a.dir = .write

/-- The state at that grant: the plain reads ahead are carried, the port is free, its requester the last granted. -/
def State.granted (s : State) (q : PortId) : State := s.serveReads.endAccess q

/-- The arbiter grants the Write-back Unit next, once the plain reads ahead of it are carried (R29, R32). -/
abbrev State.grantsWriteBack (s : State) : Prop := s.serveReads.nextGrant = some .w

/-- The state at that grant. -/
def State.writeBackGranted (s : State) : State := { s.serveReads with lastGranted := .w }

/-- The arbiter grants the F-port next, and it holds a read of the command word of a device (R25). -/
abbrev State.grantsCommandRead (s : State) (a : Access) (d : DevId) : Prop :=
  s.serveReads.nextPort = some .f ∧ (s.serveReads.port .f).access = some a ∧ a.dir = .read ∧
    s.serveReads.classify a.addr = .command d

/-- The next frame frees no context (R173): its slot carries no mark. -/
abbrev State.slotUnmarked (s : State) : Prop := s.waitingOn s.recorder.index = none

/-- No slot carries a mark: no context is ENDING (R173). -/
abbrev State.noMarks (s : State) : Prop := ∀ k, s.recorder.marks.get k = none

/-- No context stands in DEAD_WAIT, so no event starts or stops a dead-bus timer (R117). -/
abbrev State.noDeadWait (s : State) : Prop :=
  ∀ k, ¬((s.context k).state = .active ∧ (s.context k).phase = .deadWait)

/-- Between events, with no dead-bus timer to watch: the end of an event only marks the words that changed. -/
abbrev State.steady (s : State) : Prop := s.settled ∧ s.noDeadWait

/-- The same but for context k. -/
abbrev State.steadyBut (s : State) (k : CtxId) : Prop :=
  s.settled ∧ ∀ j, j ≠ k → ¬((s.context j).state = .active ∧ (s.context j).phase = .deadWait)

/-- No context is ACTIVE, so no event finds one to tell (R142). -/
abbrev State.noTransfer (s : State) : Prop := ∀ k, s.active k = false

/-- The device is owned by no context, so its events are told to none (R48). -/
abbrev State.ownedByNoContext (s : State) (d : DevId) : Prop := s.ownerContext d = none

/-- The Incident Recorder once a frame has been raised in an unmarked slot (R168, R172). -/
def State.recorded (s : State) (i : Incident) : Recorder :=
  { s.recorder with
    log := s.recorder.log.writeAll (8 * s.recorder.index.toNat) (i.words s.ms), index := s.recorder.index + 1,
    attention :=
      if s.attends i.cls then s.recorder.attention ||| BitVec.ofNat 11 (2 ^ i.cls.code) else s.recorder.attention }

/-- The words that a frame in the next slot marks dirty: the index word and the eight words of the slot (R168). -/
def State.frameMarks (s : State) : List Nat := 0x203 :: slotOffsets s.recorder.index

/-- No evaluation of an island changes anything: none needs supply, and SOURCE_RETURN holds REPORT (R96, R97). -/
abbrev State.nothingToEvaluate (s : State) : Prop :=
  (∀ b, s.needsSupply (s.island b) = false) ∧ s.board.responses.returnReturn = false

/-- No request is taken from the queue: a copy waits, the latch is set, or no context is FREE (R101). -/
abbrev State.takingClosed (s : State) : Prop := s.takingOpen = false ∨ s.nextFree = none

/-- s with a frame recorded in an unmarked slot. -/
def State.framed (s : State) (i : Incident) : State := { s with recorder := s.recorded i }

/-- s with the word w in place of the data of the write `a` that the P-port holds. -/
def State.offering (s : State) (a : Access) (w : Word) : State :=
  { s with pPort := { s.pPort with access := some { a with data := w } } }

/-- The scanner's write `a` reports a device in a position, and raises no tripped indication (R25, R45, R46). -/
abbrev State.reports (s t : State) (a : Access) (d : DevId) (p : Position) : Prop :=
  s.grantsWrite .f a ∧ s.granted .f = t ∧ t.classify a.addr = .position d ∧ positionOf a.data = p ∧
    (a.data.getLsbD 2 = false ∨ (t.device d).tripped = true)

/-- The processor's write `a` is an OPEN of a device, which has no command pending (R24, R41). -/
abbrev State.processorOpening (s t : State) (a : Access) (d : DevId) : Prop :=
  s.grantsWrite .p a ∧ s.granted .p = t ∧ t.classify a.addr = .command d ∧ commandCode a.data = some .opn ∧
    (t.device d).pending = false

/-! ## The words of application (R17) -/

/-- A device entry keeps its record at application. -/
abbrev DeviceEntry.sameRecord (old new : DeviceEntry) : Prop :=
  old.kind.code = new.kind.code ∧ old.command = new.command ∧ old.position = new.position

/-- The record of a device under a new working copy: kept, or built afresh. -/
def State.recordAt (s : State) (new : Board) (d : DevId) : Device :=
  if (s.entry d).sameRecord (new.devices.get d) then s.device d
  else
    { owner := .processor, tag := 0, observed := .unknown, available := false, tripped := false, pending := false,
      op := .idle, overrun := false, fail := false, trip := false, deferred := none }

/-- Application with the latch set takes the device into EMERGENCY ownership. -/
abbrev State.seizes (s : State) (new : Board) (d : DevId) : Prop :=
  s.latch.isSet = true ∧ (new.devices.get d).kind ≠ .unused ∧ (new.devices.get d).emergencyOpen = true ∧
    (s.recordAt new d).owner ≠ .emergency

/-- The record of a device after application. -/
def State.recordAfter (s : State) (new : Board) (d : DevId) : Device :=
  if s.seizes new d then { s.recordAt new d with owner := .emergency, deferred := none }
  else if s.latch.isSet = true ∧ (new.devices.get d).emergencyOpen = false ∧ (s.recordAt new d).owner = .emergency then
    { s.recordAt new d with owner := .processor }
  else s.recordAt new d

/-! ## The words of a transfer -/

/-- The sections of a set take a state, the others keep theirs. -/
def State.sectionsTo (s u : State) (x : FourSet) (st : SectionState) : Prop :=
  ∀ b, (u.section b).state = if x.get b = true then st else (s.section b).state

/-- A context has ended with a result (R124): it is ENDING, without a claim, a timer or a device. -/
def State.endedWith (u : State) (k : CtxId) (r : Result) : Prop :=
  (u.context k).state = .ending ∧ (u.context k).result = some r ∧ (u.context k).claim = .none ∧
    (u.context k).timer = none ∧ ∀ d, u.owns k d = false

/-- The Incident Recorder once the TRANSFER_END frame of a context has been raised in an unmarked slot, which then carries
its mark (R124, R125, R173). `u` is the state that the event leaves: what the frame shows stays as it was. -/
def State.recordedEnd (s u : State) (k : CtxId) (r : Result) : Recorder :=
  { s.recorded (u.transferEnd k r) with marks := s.recorder.marks.set k (some s.recorder.index) }

/-- An event that has left s ends context k with a result (R103, R124, R125): its sections take a state, and its TRANSFER_END
frame is raised. -/
def State.ends (s u : State) (k : CtxId) (r : Result) (st : SectionState) : Prop :=
  u.endedWith k r ∧ s.sectionsTo u (s.context k).set st ∧ u.recorder = s.recordedEnd u k r

/-- No deferred word waits, so a release re-checks none (R54). -/
abbrev State.noDeferred (s : State) : Prop := ∀ d, (s.device d).deferred = none

/-- SELECT finds nothing for context k once `r` is excluded (R111): it has no fixed target, its set is not FED by an AVAILABLE
source, and every route of its list is excluded. -/
abbrev State.noRouteLeft (s : State) (k : CtxId) (r : Option Route) : Prop :=
  (s.context k).fixed = false ∧ s.fedAvailable (s.context k).set = none ∧
    ∀ x ∈ (s.sectionEntry (s.context k).lead).routes, x ∈ (s.context k).excluded ∨ r = some x

/-- The record of a context that R143 takes back to SELECT from a phase without a timer. -/
def Context.sentBack (c : Context) : Context := { c with claim := .none, transition := .opn, restoring := none }

/-- A feeder of the restore list that settles at its take without a command (R121). -/
def State.passedOver (s : State) (k : CtxId) (d : DevId) : Bool :=
  !s.owns k d || (s.device d).observed == .closed || !s.usableDevice d

/-- The hand-overs of a completed transfer, `x` its withheld feeders (R9, R105, R123): each section of the set records the
tie at the border that the target route crosses, none for a SOURCE route, and takes its own withheld feeders. -/
def State.handsOver (s u : State) (c : Context) (x : DevSet) : Prop :=
  ∀ b, c.set.get b = true →
    ((∀ n, c.target = some (.source n) → (u.section b).borrow = none) ∧
      (∀ t : TieId, c.target = some .tieLeft → t.val + 1 = c.set.lowest.val → (u.section b).borrow = some t) ∧
      (∀ t : TieId, c.target = some .tieRight → t.val = c.set.highest.val → (u.section b).borrow = some t)) ∧
    (∀ d, (u.section b).withheld.get d = true ↔ x.get d = true ∧ s.kindOf d = .feeder b)

/-- The devices that a context opens on entry to OPENING (R115), `left` its abandoned devices: counted closed, and an
incomer or a shed-flagged feeder of its set, its old borrow tie, abandoned, or a restored feeder. -/
def State.opens (s : State) (c : Context) (left : DevSet) : DevSet := Sixteen.ofFn fun d =>
  s.countedClosed d &&
    (s.incomerOn c.set d || c.oldTie == some d || left.get d || (s.feederOn c.set d && (s.entry d).shed) ||
      c.restored.get d)

/-- Every device of a set is owned by the context. -/
abbrev State.ownsAll (s : State) (k : CtxId) (x : DevSet) : Prop := ∀ d, x.get d = true → s.owns k d = true

/-- The injection queue once a context has queued an OPEN for each device of a set, in ascending order (R30, R115). -/
def State.openingQueue (s : State) (k : CtxId) (x : DevSet) (q : List Injection) : List Injection :=
  (DevSet.toList x).foldl
    (fun q d => joinInjection { device := d, code := .opn, tag := (s.device d).tag + 1, owner := .context k } q) q

/-- A context in OPENING on a route (R111, R115): the devices `x` wait to open, the feeders among them join the shed set. -/
def State.openingOn (s : State) (c : Context) (left x : DevSet) (r : Route) (d : DevId) : Context :=
  { c with
    target := some r, routeDevice := some d, abandoned := left, awaited := none, timer := none, phase := .opening,
    reroute := false, opening := x, sent := DevSet.none, failed := DevSet.none, closeInMemory := false,
    shed := Sixteen.ofFn fun e => c.shed.get e || (x.get e && s.feederOn (Four.fill true) e) }

/-- The abandoned devices once a context has taken a route through d: its earlier route device joins them (R111). -/
def Context.leaves (c : Context) (d : DevId) : DevSet :=
  match c.routeDevice with
  | some o => (c.abandoned.set o true).set d false
  | none => c.abandoned.set d false

/-- An OPEN of the device decides in OPENING whether the context ends DEVICE_FAILED: an incomer, the old borrow tie, an
abandoned route device (R116). -/
def State.decides (s : State) (c : Context) (d : DevId) : Bool :=
  (s.incomerSource d).isSome || c.oldTie == some d || c.abandoned.get d

/-- The device that a request's set records as its borrow tie, for a RETURN or MANUAL (R109). -/
def State.borrowedTie (s : State) (e : Request) : Option DevId := (s.section e.lead).borrow.bind s.tieAt

/-- A context that starts on a RETURN or MANUAL entry captures the device (R50). -/
def State.captures (s : State) (e : Request) (d : DevId) : Bool :=
  s.hasRecord d && (s.connects d e.set || s.borrowedTie e == some d) && (s.device d).owner == .processor

/-- The record of a context that starts on a RETURN or MANUAL entry (R109). -/
def State.startsWith (s : State) (e : Request) : Context :=
  { Context.blank with
    state := .active, kind := e.kind, transition := e.transition, set := e.set, lead := e.lead,
    oldTie := s.borrowedTie e,
    oldSources := Four.ofFn fun n =>
      match s.incomerOf n with
      | some d => s.incomerOn e.set d && s.countedClosed d
      | none => false
    target := e.target, fixed := e.target.isSome,
    carried := Sixteen.ofFn fun d => allFours.any fun b => e.set.get b && (s.section b).withheld.get d,
    cause := e.cause, start := s.ms }

/-- The injection queue once context k has captured the devices of an entry: the CLOSEs that it queued for them in an
earlier transfer are cancelled (R50). -/
def State.capturedQueue (s : State) (k : CtxId) (e : Request) : List Injection :=
  s.injections.filter fun x => !(s.captures e x.device && x.code == .cls && x.owner == .context k)

/-- Context k has taken the entry e, alone in the queue of s, and has become c (R50, R91, R101, R102). -/
def State.taken (s u : State) (k : CtxId) (e : Request) (c : Context) : Prop :=
  u.queue = [] ∧ u.lastAssigned = k ∧ u.context k = c ∧ (∀ j, j ≠ k → u.context j = s.context j) ∧
    (∀ b, u.section b = if e.set.get b = true then { s.section b with state := .transferring } else s.section b) ∧
    (∀ d, u.device d = if s.captures e d = true then { s.device d with owner := .context k } else s.device d)

/-! ## What a command stores to -/

/-- The guard passes the command (R60). -/
def Verdict.passes : Verdict → Bool
  | .pass _ => true
  | .defer | .refuse _ => false

/-- The address of the write that port q is granted next, if its row takes it for its data and class. -/
def State.writesAt (s : State) (q : PortId) (takes : Access → WordClass → Bool) : Option Word :=
  if s.serveReads.nextPort = some q then
    ((s.serveReads.port q).access.filter fun a => a.dir == .write && takes a (s.classify a.addr)).map Access.addr
  else none

/-- The command address of the device of an injection that the guard passes at its grant (R32, R33). -/
def State.injectsAt (s : State) (e : Injection) : Option Word :=
  if (s.judge (.injection e.owner) e.device (some e.code)).passes then some (s.entry e.device).command else none

/-- The address that a command stores to, if it stores one word: the address of the write that its port is granted, where
the row takes it and the guard does not turn it away; of an injection that passes, the command address of its device; of a
report word, its address (R24 to R28, R32, R33). A write that is refused, deferred or malformed stores nothing. -/
def State.storesAt (s : State) : Instr → Option Word
  | .processorOpen => s.writesAt .p fun a c =>
    match c with
    | .command _ => commandCode a.data == some .opn
    | _ => false
  | .processorClose => s.writesAt .p fun a c =>
    match c with
    | .command d => commandCode a.data == some .cls && (s.judge .processorWrite d (some .cls)).passes
    | _ => false
  | .configurationWrite => s.writesAt .p fun _ c =>
    match c with
    | .configuration _ => true
    | _ => false
  | .commit => s.writesAt .p fun a c => c == .control 0x100 && a.data.getLsbD 0
  | .restart => s.writesAt .p fun a c => c == .control 0x100 && a.data.getLsbD 1
  | .eopClear => s.writesAt .p fun a c => c == .control 0x100 && a.data.getLsbD 2
  | .arm => s.writesAt .p fun _ c => c == .control 0x101
  | .disarm => s.writesAt .p fun _ c => c == .control 0x102
  | .release => s.writesAt .p fun _ c => c == .control 0x103
  | .manualRequest => s.writesAt .p fun _ c =>
    match c with
    | .control off => (manualSection off).isSome
    | _ => false
  | .attentionClear => s.writesAt .p fun _ c => c == .report 0x202
  | .deviceFlagClear => s.writesAt .p fun _ c =>
    match c with
    | .report off => (indexAt 0x220 16 off).isSome
    | _ => false
  | .reportWordWrite => s.writesAt .p fun _ c =>
    match c with
    | .report off => off != 0x202 && (indexAt 0x220 16 off).isNone
    | _ => false
  | .otherWordWrite q => s.writesAt q fun a c =>
    match c, q with
    | .other, .p => true
    | .other, .f => !inGuardPage s.store.page a.addr
    | .control off, .p => off == 0x100 && field a.data 0 3 == 0
    | _, _ => false
  | .positionWord => s.writesAt .f fun _ c =>
    match c with
    | .position _ => true
    | _ => false
  | .scannerCommandRead =>
    if s.serveReads.nextPort = some .f then
      match (s.serveReads.port .f).access with
      | some a =>
        match a.dir, s.classify a.addr with
        | .read, .command d => (s.queued d).bind s.injectsAt
        | _, _ => none
      | none => none
    else none
  | .injectionWrite => if s.serveReads.nextGrant = some .w then s.injections.head?.bind s.injectsAt else none
  | .reportWriteBack =>
    if s.serveReads.nextGrant = some .w ∧ s.injections = [] then s.dirty.head?.map (guardAddress s.store.page) else none
  | .malformedCommandWrite | .positionWrite | .fieldWrite | .hardwareReset _ | .accessPresent _ _ | .accessWithdrawn _
  | .healthLevelFall _ | .healthLevelRise _ | .lockLevelRise _ | .lockLevelFall _ | .eopFilteredChange | .eopFilterSeed
  | .syncLevelChange | .syncGrant | .rideThroughExpiry _ | .stabilityExpiry _ | .coolDownExpiry _
  | .operateDeadlineExpiry _ | .startLimitExpiry _ | .deadBusExpiry _ | .restoreStaggerExpiry _ | .settleExpiry
  | .syncWindowExpiry | .overlapExpiry _ | .millisecondTick _ _ _ _ => none

end Sys2Proof.Machine
end

