-- ==== Sys2Proof/Certificates/Slice0/Obligations.lean ====
section
/-! DEFINITION. The statements for the provers. In a statement about a grant, `s` is the state the command meets and `t`
the state at the grant: the plain reads ahead are carried, the port is free (`PortsHoldOneAccess` says what that
changes). A state written `{ t with … }` leaves every field it does not name as it was: that is the statement's frame.
`D` is the dirty set afterwards: it keeps every word it held, and the invariant says which others it gains. -/

section
open Sys2Proof Sys2Proof.Machine

/-! ## The queue, the ports, the arbiter -/

/-- A step of a waiting command is the command's meaning on the queue's rest. -/
def Obligations.StepTakesTheFrontCommand : Prop :=
  ∀ (c : Instr) (rest : List Instr) (s : State), step { s with pending := c :: rest } = exec c { s with pending := rest }

/-- On an empty queue the plain read that the arbiter has next is carried, else the block idles (the model's choice, log 3). -/
def Obligations.EmptyQueueCarriesAPlainRead : Prop :=
  (∀ (s : State) (q : PortId) (a : Access), s.pending = [] → s.nextPort = some q → (s.port q).access = some a →
    s.plainRead q a = true → step s = .next (s.endRead q (s.readImage a.addr))) ∧
  (∀ (s : State), s.pending = [] →
    (∀ (q : PortId) (a : Access), s.nextPort = some q → (s.port q).access = some a → s.plainRead q a = false) →
    step s = .next s)

/-- No command stops: each answers a next state, refusals of the part included (R26, R71). -/
def Obligations.EveryCommandCompletes : Prop := ∀ (c : Instr) (s : State), ∃ u, exec c s = .next u

/-- A port holds one access; presenting raises its wait line, withdrawing lowers it (R21). A grant changes the ports and the
last-granted requester only (R24, R29). The model's choice: a second presentation changes nothing (log 1; R21 says that the
master makes none), and a grant carries the plain reads that stand ahead of it (log 3). -/
def Obligations.PortsHoldOneAccess : Prop :=
  (∀ (q : PortId) (a : Access) (s : State), (s.port q).access = none →
    exec (.accessPresent q a) s = .next (s.setPort q { s.port q with access := some a })) ∧
  (∀ (q : PortId) (a b : Access) (s : State), (s.port q).access = some b → exec (.accessPresent q a) s = .next s) ∧
  (∀ (q : PortId) (s : State), exec (.accessWithdrawn q) s = .next (s.setPort q { s.port q with access := none })) ∧
  (∀ (s : State) (a : Option Access) (w : Word), (s.setPort .p ⟨a, w⟩).pwait = a.isSome ∧
    (s.setPort .f ⟨a, w⟩).fwait = a.isSome) ∧
  (∀ (s : State) (q : PortId), ((s.granted q).port q).access = none ∧
    ∃ p f, s.granted q = { s with pPort := p, fPort := f, lastGranted := requesterOf q })

/-- The rotation runs P-port, F-port, Write-back Unit, P-port: the arbiter grants the first waiting requester after the
last-granted one, and one that waits is granted within three grants (R29). -/
def Obligations.ArbiterServesWithinThreeGrants : Prop :=
  (∀ (s : State) (x y z : Requester),
    [x, y, z] = (match s.lastGranted with | .p => [.f, .w, .p] | .f => [.w, .p, .f] | .w => [.p, .f, .w]) →
    s.nextGrant =
      if s.waiting x = true then some x else if s.waiting y = true then some y else if s.waiting z = true then some z
      else none) ∧
  (∀ s : State, (s.waiting .p = true ↔ s.pPort.access ≠ none) ∧ (s.waiting .f = true ↔ s.fPort.access ≠ none) ∧
    (s.waiting .w = true ↔ s.injections ≠ [] ∨ s.dirty ≠ [])) ∧
  ∀ (r g h : Requester) (s₁ s₂ s₃ : State), s₁.waiting r = true → s₂.waiting r = true → s₃.waiting r = true →
    s₁.nextGrant = some g → s₂.lastGranted = g → s₂.nextGrant = some h → s₃.lastGranted = h →
    g = r ∨ h = r ∨ s₃.nextGrant = some r

/-! ## Reset and the invariant -/

/-- The invariant holds after reset. -/
def Obligations.ResetIsSound : Prop := State.reset.Inv

/-- Every step keeps the invariant: canonical memories, an ordered dirty set, one injection for a device, command and
position words apart and outside the guard page, run demand, EMERGENCY ownership, and status words in memory that are
current unless dirty. -/
def Obligations.StepKeepsTheInvariant : Prop := ∀ (s u : State), s.Inv → step s = .next u → u.Inv

/-- The images of the status words after hardware reset (R179), and what HARDWARE_RESET leaves: the values of R20, R36,
R90, R107, R128, R167 and R175, memory and the waiting commands kept. -/
def Obligations.HardwareResetValues : Prop :=
  (State.reset.reportImage 0x200 = 0 ∧ State.reset.reportImage 0x201 = 0xFFFF ∧
  (∀ b : SecId, State.reset.reportImage (0x210 + b.val) = 0x7EE0) ∧
  ∀ off ∈ statusOffsets, off ≠ 0x201 → (∀ b : SecId, off ≠ 0x210 + b.val) → State.reset.reportImage off = 0) ∧
  (∀ (strap : BitVec 4) (s : State), ∃ u, exec (.hardwareReset strap) s = .next u ∧ u.image = s.image ∧
    u.pending = s.pending ∧
    u.store = { page := strap, staged := [], pendingCopy := none, working := none, status := .none, reject := none } ∧
    u.pwait = false ∧ u.fwait = false ∧ u.lastGranted = .w ∧ u.injections = [] ∧ u.dirty = statusOffsets ∧
    (∀ n, (u.source n).state = .failed ∧ (u.source n).health.level = false ∧ (u.source n).health.count = 0 ∧
      (u.source n).ride = none ∧ (u.source n).stab = none ∧ (u.source n).cool = none ∧ u.rq n = false) ∧
    (∀ b, (u.locks.get b).level = false ∧ (u.locks.get b).count = 0) ∧
    (∀ b, u.section b = { state := .disarmed, borrow := none, withheld := DevSet.none }) ∧
    u.queue = [] ∧ u.lastAssigned = 2 ∧ (∀ k, (u.context k).state = .free) ∧ u.sync.hold = none ∧ u.sync.claims = [] ∧
    u.latch.isSet = false ∧ u.latch.filter.level = false ∧ u.latch.filter.count = 0 ∧ u.recorder.index = 0 ∧
    u.recorder.log = [] ∧ (∀ k, u.recorder.marks.get k = none) ∧ u.recorder.attention = 0 ∧ u.atn = true ∧ u.ms = 0)

/-! ## What a command leaves alone -/

/-- Memory changes at the address that the command stores to and nowhere else, whatever the command. -/
def Obligations.MemoryUnchangedElsewhere : Prop :=
  ∀ (c : Instr) (s u : State), s.Inv → exec c s = .next u →
    ∀ x : Word, s.storesAt c ≠ some x → u.readImage x = s.readImage x

/-- But for HARDWARE_RESET a command leaves the guard page base and the waiting commands; but for a tick the clock and the
lines; but for CONFIGURATION_WRITE the staged copy (R13, R20, R176). -/
def Obligations.StrapClockAndStagedCopyKept : Prop :=
  ∀ (c : Instr) (s u : State), (∀ g, c ≠ .hardwareReset g) → exec c s = .next u →
    u.store.page = s.store.page ∧ u.pending = s.pending ∧
    ((∀ sh lk eop sync, c ≠ .millisecondTick sh lk eop sync) → u.ms = s.ms ∧ u.pins = s.pins) ∧
    (c ≠ .configurationWrite → u.store.staged = s.store.staged)

/-! ## The Write Guard -/

/-- The safety of the guard (R65 to R68): where a command, whatever it is, stores a CLOSE into a device's command word, or
changes the word to one, the latch does not hold the device open, no section it connects to is locked, and its prospective
island is not paralleled but under the synchronised exemption, which an injection alone can have. -/
def Obligations.NoUnsafeCloseReachesMemory : Prop :=
  ∀ (c : Instr) (s u : State) (d : DevId), s.Inv → exec c s = .next u → s.hasRecord d = true →
    s.storesAt c = some (s.entry d).command ∨
      u.readImage (s.entry d).command ≠ s.readImage (s.entry d).command →
    commandCode (u.readImage (s.entry d).command) = some .cls →
    ¬(s.latch.isSet = true ∧ (s.entry d).emergencyOpen = true) ∧ s.deviceLocked d = false ∧
      (s.wouldParallel d = false ∨
        ((c = .injectionWrite ∨ c = .scannerCommandRead) ∧ ∃ k, s.exempt (.injection (.context k)) d = true))

/-- The checks of a CLOSE in their order (R60, R63 to R67). -/
def Obligations.CloseIsCheckedInOrder : Prop :=
  (∀ (s : State) (d : DevId) (k : CtxId), (s.device d).owner = .context k →
    s.judge .processorWrite d (some .cls) = .defer ∧
    ∀ e : Enqueuer, e ≠ .context k → s.judge (.injection e) d (some .cls) = .refuse .deferred) ∧
  (∀ (s : State) (as : JudgedAs) (d : DevId),
    ((s.device d).owner = .processor ∨ (s.device d).owner = .emergency ∨
      ∃ k, (s.device d).owner = .context k ∧ as = .injection (.context k)) →
    (s.latch.isSet = true ∧ (s.entry d).emergencyOpen = true → s.judge as d (some .cls) = .refuse .emergency) ∧
    (¬(s.latch.isSet = true ∧ (s.entry d).emergencyOpen = true) → s.deviceLocked d = true →
      s.judge as d (some .cls) = .refuse .locked) ∧
    (¬(s.latch.isSet = true ∧ (s.entry d).emergencyOpen = true) → s.deviceLocked d = false →
      s.wouldParallel d = true → s.exempt as d = false → s.judge as d (some .cls) = .refuse .parallel) ∧
    (¬(s.latch.isSet = true ∧ (s.entry d).emergencyOpen = true) → s.deviceLocked d = false →
      s.wouldParallel d = true → s.exempt as d = true → s.judge as d (some .cls) = .pass true) ∧
    (¬(s.latch.isSet = true ∧ (s.entry d).emergencyOpen = true) → s.deviceLocked d = false →
      s.wouldParallel d = false → s.judge as d (some .cls) = .pass false))

/-- A malformed command is refused, whoever owns the device and whatever else the word holds; injections and deferred
words are never malformed (R61). -/
def Obligations.MalformedCommandIsRefused : Prop :=
  (∀ w : Word, commandCode w = none ↔ field w 0 2 = 0 ∨ field w 0 2 = 3) ∧
  (∀ (s : State) (as : JudgedAs) (d : DevId), s.judge as d none = .refuse .malformed) ∧
  (∀ v w : Word, field v 0 2 = field w 0 2 → commandCode v = commandCode w) ∧
  (∀ e : Injection, commandCode (commandWord e.code 1 e.tag) = some e.code) ∧
  (∀ (s : State) (as : JudgedAs) (d : DevId) (c : Option Cmd), s.judge as d c = .defer → c = some .cls) ∧
  (∀ (s t : State) (a : Access) (d : DevId), s.grantsWrite .p a → s.granted .p = t → t.classify a.addr = .command d →
    commandCode a.data = none → t.steady → t.slotUnmarked →
    ∃ D, (∀ off ∈ t.dirty ++ t.frameMarks, off ∈ D) ∧ exec .malformedCommandWrite s = .next
      { t with
        recorder := t.recorded
          { cls := .writeRefused, detail := some .malformed, sec := t.frameSection d, dev := some d,
            src := t.incomerSource d, ctx := t.ownerContext d, cause := (t.ownerContext d).bind fun k => (t.context k).cause,
            w5 := a.addr, w6 := a.data, w7 := 0 },
        dirty := D })

/-- An OPEN passes always, the processor's to any breaker, whoever owns it, and an injection however it is carried; it
counts no device closed that was not (R62). -/
def Obligations.OpenAlwaysPasses : Prop :=
  (∀ (s : State) (as : JudgedAs) (d : DevId), s.judge as d (some .opn) = .pass false) ∧
  (∀ (s : State) (d e : DevId) (tag : BitVec 4) (pending : Bool),
    (s.commandReaches d .opn tag pending).countedClosed e = true → s.countedClosed e = true) ∧
  (∀ (s t : State) (a : Access) (d : DevId), s.grantsWrite .p a → s.granted .p = t → t.classify a.addr = .command d →
    commandCode a.data = some .opn →
    ∃ u, exec .processorOpen s = .next u ∧
      u.image = t.image.write a.addr.toNat (commandWord .opn 0 (commandTag a.data))) ∧
  (∀ (s : State) (e : Injection) (es : List Injection), s.grantsWriteBack → s.injections = e :: es → e.code = .opn →
    ∃ u, exec .injectionWrite s = .next u ∧
      u.image = s.image.write (s.entry e.device).command.toNat (commandWord .opn 1 e.tag)) ∧
  (∀ (s : State) (a : Access) (d : DevId) (e : Injection), s.grantsCommandRead a d → s.queued d = some e → e.code = .opn →
    ∃ u, exec .scannerCommandRead s = .next u ∧
      u.image = s.image.write (s.entry d).command.toNat (commandWord .opn 1 e.tag))

/-! ## Commands that the processor writes -/

/-- A processor OPEN, and a processor CLOSE that passes, of a device that no context owns, with no command pending: an OPEN
cancels the queued injection, a CLOSE lets it stay (R31, R39, R42, R52, R69, R177). -/
def Obligations.ProcessorCommandIsTaken : Prop :=
  (∀ (s t : State) (a : Access) (d : DevId), s.grantsWrite .p a → s.granted .p = t → t.classify a.addr = .command d →
    commandCode a.data = some .opn → t.ownedByNoContext d → (t.device d).pending = false → t.steady →
    ∃ D, (∀ off ∈ t.dirty, off ∈ D) ∧ exec .processorOpen s = .next
      { t with
        image := t.image.write a.addr.toNat (commandWord .opn 0 (commandTag a.data)),
        devices := t.devices.set d
          { t.device d with
            tag := commandTag a.data, pending := true, deferred := none,
            op := if (t.device d).observed = .opened then .idle
              else .inProgress .opn (t.ms + BitVec.ofNat 32 (t.entry d).limit) },
        injections := t.injections.filter fun e => !(e.device == d), dirty := D }) ∧
  (∀ (s t : State) (a : Access) (d : DevId), s.grantsWrite .p a → s.granted .p = t → t.classify a.addr = .command d →
    commandCode a.data = some .cls → t.ownedByNoContext d → ¬(t.latch.isSet = true ∧ (t.entry d).emergencyOpen = true) →
    t.deviceLocked d = false → t.wouldParallel d = false → (t.device d).pending = false → t.steady →
    ∃ D, (∀ off ∈ t.dirty, off ∈ D) ∧ exec .processorClose s = .next
      { t with
        image := t.image.write a.addr.toNat (commandWord .cls 0 (commandTag a.data)),
        devices := t.devices.set d
          { t.device d with
            tag := commandTag a.data, pending := true,
            op := if (t.device d).observed = .closed then .idle
              else .inProgress .cls (t.ms + BitVec.ofNat 32 (t.entry d).limit) },
        dirty := D })

/-- A command that reaches memory while one is pending sets the overrun flag and raises a frame, the command standing (R41):
a processor OPEN, a processor CLOSE that passes, and an injection that passes, at a Write-back grant or carried by a scanner
read, of a device that no context owns. -/
def Obligations.OverrunIsFramed : Prop :=
  (∀ (s t : State) (a : Access) (d : DevId) (c : Cmd), s.grantsWrite .p a → s.granted .p = t →
    t.classify a.addr = .command d → commandCode a.data = some c →
    t.judge .processorWrite d (some c) = .pass false → t.ownedByNoContext d → (t.device d).pending = true → t.steady →
    t.slotUnmarked →
    ∃ D, (∀ off ∈ t.dirty ++ t.frameMarks, off ∈ D) ∧
      exec (match c with | .opn => .processorOpen | .cls => .processorClose) s = .next
      { t with
        image := t.image.write a.addr.toNat (commandWord c 0 (commandTag a.data)),
        devices := t.devices.set d
          { t.device d with
            tag := commandTag a.data, pending := true, overrun := true,
            deferred := match c with | .opn => none | .cls => (t.device d).deferred,
            op := if (t.device d).observed = c.target then .idle
              else .inProgress c (t.ms + BitVec.ofNat 32 (t.entry d).limit) },
        injections := match c with
          | .opn => t.injections.filter fun e => !(e.device == d)
          | .cls => t.injections,
        recorder := t.recorded
          { cls := .commandOverrun, sec := t.frameSection d, dev := some d, src := t.incomerSource d },
        dirty := D }) ∧
  (∀ (s t : State) (e : Injection) (es : List Injection), s.grantsWriteBack → s.writeBackGranted = t →
    t.injections = e :: es → t.judge (.injection e.owner) e.device (some e.code) = .pass false →
    t.ownedByNoContext e.device → (t.device e.device).pending = true → t.steady → t.slotUnmarked →
    ∃ D, (∀ off ∈ t.dirty ++ t.frameMarks, off ∈ D) ∧ exec .injectionWrite s = .next
      { t with
        image := t.image.write (t.entry e.device).command.toNat (commandWord e.code 1 e.tag),
        injections := t.injections.filter fun x => !(x.device == e.device),
        devices := t.devices.set e.device
          { t.device e.device with
            tag := e.tag, pending := true, overrun := true,
            op := if (t.device e.device).observed = e.code.target then .idle
              else .inProgress e.code (t.ms + BitVec.ofNat 32 (t.entry e.device).limit) },
        recorder := t.recorded
          { cls := .commandOverrun, sec := t.frameSection e.device, dev := some e.device,
            src := t.incomerSource e.device },
        dirty := D }) ∧
  (∀ (s t : State) (a : Access) (d : DevId) (e : Injection), s.grantsCommandRead a d → s.serveReads = t →
    t.queued d = some e → t.judge (.injection e.owner) d (some e.code) = .pass false → t.ownedByNoContext d →
    (t.device d).pending = true → t.image.wf = true → t.steady → t.slotUnmarked →
    ∃ D, (∀ off ∈ t.dirty ++ t.frameMarks, off ∈ D) ∧ exec .scannerCommandRead s = .next
      { t with
        fPort := { access := none, data := commandWord e.code 1 e.tag }, lastGranted := .f,
        image := t.image.write (t.entry d).command.toNat (commandWord e.code 1 e.tag),
        injections := t.injections.filter fun x => !(x.device == d),
        devices := t.devices.set d
          { t.device d with
            tag := e.tag, pending := false, overrun := true,
            op := if (t.device d).observed = e.code.target then .idle
              else .inProgress e.code (t.ms + BitVec.ofNat 32 (t.entry d).limit) },
        recorder := t.recorded
          { cls := .commandOverrun, sec := t.frameSection d, dev := some d, src := t.incomerSource d },
        dirty := D })

/-- A processor CLOSE to a device that a context owns waits in the deferred slot, a word there replaced; one that is refused
leaves everything but the frame (R53, R63, R70, R71). -/
def Obligations.ProcessorCloseIsHeldBack : Prop :=
  (∀ (s t : State) (a : Access) (d : DevId) (k : CtxId), s.grantsWrite .p a → s.granted .p = t →
    t.classify a.addr = .command d → commandCode a.data = some .cls → (t.device d).owner = .context k → t.steady →
    t.slotUnmarked →
    ∃ D, (∀ off ∈ t.dirty ++ t.frameMarks, off ∈ D) ∧ exec .processorClose s = .next
      { t with
        devices := t.devices.set d { t.device d with deferred := some a.data },
        recorder := t.recorded
          { cls := .writeRefused, detail := some .deferred, sec := t.frameSection d, dev := some d,
            src := t.incomerSource d, ctx := some k, cause := (t.context k).cause, w5 := a.addr, w6 := a.data, w7 := 0 },
        dirty := D }) ∧
  (∀ (s t : State) (a : Access) (d : DevId) (r : Detail), s.grantsWrite .p a → s.granted .p = t →
    t.classify a.addr = .command d → commandCode a.data = some .cls →
    t.judge .processorWrite d (some .cls) = .refuse r → t.steady → t.slotUnmarked →
    ∃ D, (∀ off ∈ t.dirty ++ t.frameMarks, off ∈ D) ∧ exec .processorClose s = .next
      { t with
        recorder := t.recorded
          { cls := .writeRefused, detail := some r, sec := t.frameSection d, dev := some d, src := t.incomerSource d,
            w5 := a.addr, w6 := a.data, w7 := 0 },
        dirty := D })

/-! ## The other writes -/

/-- CONFIGURATION_WRITE stores the word unchanged and stages it (R13). OTHER_WORD_WRITE: an other word is stored unchanged
from either port, the guard page closed to the scanner (R24, R25); a general control write that names no action stores zero
(R27; that this row carries it is the model's choice, log 8). -/
def Obligations.PlainWritesAreStored : Prop :=
  (∀ (s t : State) (a : Access) (off : Nat), s.grantsWrite .p a → s.granted .p = t →
    t.classify a.addr = .configuration off →
    exec .configurationWrite s = .next
      { t with
        image := t.image.write a.addr.toNat a.data,
        store := { t.store with staged := t.store.staged.write off a.data } }) ∧
  (∀ (q : PortId) (s t : State) (a : Access), s.grantsWrite q a → s.granted q = t → t.classify a.addr = .other →
    (q = .f → inGuardPage t.store.page a.addr = false) →
    exec (.otherWordWrite q) s = .next { t with image := t.image.write a.addr.toNat a.data }) ∧
  (∀ (s t : State) (a : Access), s.grantsWrite .p a → s.granted .p = t → t.classify a.addr = .control 0x100 →
    field a.data 0 3 = 0 → exec (.otherWordWrite .p) s = .next { t with image := t.image.write a.addr.toNat 0 })

/-- Writes refused outright: a processor write to a position word, a scanner write to a command word or into the guard page
(R26). -/
def Obligations.WritesRefusedOutright : Prop :=
  (∀ (s t : State) (a : Access) (d : DevId), s.grantsWrite .p a → s.granted .p = t → t.classify a.addr = .position d →
    t.steady → t.slotUnmarked →
    ∃ D, (∀ off ∈ t.dirty ++ t.frameMarks, off ∈ D) ∧ exec .positionWrite s = .next
      { t with
        recorder := t.recorded
          { cls := .writeRefused, detail := some .positionWrite, dev := some d, w5 := a.addr, w6 := a.data, w7 := 0 },
        dirty := D }) ∧
  (∀ (s t : State) (a : Access) (d : DevId), s.grantsWrite .f a → s.granted .f = t → t.classify a.addr = .command d →
    t.steady → t.slotUnmarked →
    ∃ D, (∀ off ∈ t.dirty ++ t.frameMarks, off ∈ D) ∧ exec .fieldWrite s = .next
      { t with
        recorder := t.recorded
          { cls := .writeRefused, detail := some .fieldWrite, dev := some d, w5 := a.addr, w6 := a.data, w7 := 1 },
        dirty := D }) ∧
  (∀ (s t : State) (a : Access), s.grantsWrite .f a → s.granted .f = t → inGuardPage t.store.page a.addr = true →
    t.steady → t.slotUnmarked →
    ∃ D, (∀ off ∈ t.dirty ++ t.frameMarks, off ∈ D) ∧ exec .fieldWrite s = .next
      { t with
        recorder := t.recorded
          { cls := .writeRefused, detail := some .fieldWrite, w5 := a.addr, w6 := a.data, w7 := 1 },
        dirty := D })

/-! ## Frames (R168, R172, R173) -/

/-- A frame raised: its eight words stand in the slot the index names, the other slots keep theirs, the index advances by
one modulo 32, and the attention bit is set by the class's attention field, always while UNCONFIGURED (R168, R171, R172).
The words of a frame and its codes (R169; 11.1, 12.6), and the fields of a TRANSFER_END frame (R125). -/
def Obligations.RaisedFrameTakesItsSlot : Prop :=
  (∀ (s : State) (i : Incident), s.recorder.log.wf = true →
    (∀ j, j < 8 → (s.raise i).recorder.log.read (8 * s.recorder.index.toNat + j) = (i.words s.ms).getD j 0) ∧
    (∀ x, ¬(8 * s.recorder.index.toNat ≤ x ∧ x < 8 * s.recorder.index.toNat + 8) →
      (s.raise i).recorder.log.read x = s.recorder.log.read x) ∧
    (s.raise i).recorder.index = s.recorder.index + 1 ∧
    (∀ off ∈ s.frameMarks, off ∈ (s.raise i).dirty) ∧
    (s.raise i).recorder.attention =
      (if s.attends i.cls then s.recorder.attention ||| BitVec.ofNat 11 (2 ^ i.cls.code) else s.recorder.attention) ∧
    (s.store.working = none → s.attends i.cls = true) ∧
    (∀ b, s.store.working = some b → s.attends i.cls = b.responses.attention.getLsbD i.cls.code)) ∧
  (∀ (i : Incident) (ms : Ms), ∃ w0 w1 w2 : Word,
    i.words ms = [w0, w1, w2, ms.setWidth 16, (ms >>> 16).setWidth 16, i.w5, i.w6, i.w7] ∧
    field w0 0 4 = i.cls.code ∧ field w0 4 8 = (match i.detail with | some x => x.code | none => 0) ∧ field w0 12 4 = 0 ∧
    field w1 0 3 = (match i.sec with | some x => x.val | none => 7) ∧
    field w1 3 5 = (match i.dev with | some x => x.val | none => 31) ∧
    field w1 8 3 = (match i.src with | some x => x.val | none => 7) ∧
    field w1 11 3 = (match i.ctx with | some x => x.val | none => 7) ∧ field w1 14 2 = 0 ∧
    w2.toNat = (match i.cause with | some x => x.toNat | none => 63)) ∧
  ([IncidentClass.sourceDip, .sourceLoss, .sourceReturn, .deviceNoResponse, .protectionTrip, .writeRefused,
      .commandOverrun, .syncTimeout, .emergency, .configRejected, .transferEnd].map IncidentClass.code = List.range 11 ∧
    [Detail.parallel, .locked, .emergency, .malformed, .deferred, .deferredRefused, .fieldWrite, .positionWrite,
      .armRefused, .requestRefused, .injectionRefused].map Detail.code = (List.range 11).map (· + 1) ∧
    [Result.done, .doneWithheld, .recovered, .noRoute, .deviceFailed, .parallelLimit, .syncTimeout, .operatorOpen,
      .islandSplit, .locked, .disarmed, .tripped, .emergency, .returnCancelled, .supplied].map Result.code =
      List.range 15) ∧
  (∀ (s : State) (k : CtxId) (r : Result) (c : Context) (i : Incident), s.context k = c → s.transferEnd k r = i →
    i.cls = .transferEnd ∧ i.detail = none ∧ i.sec = some c.lead ∧ i.dev = c.routeDevice ∧ i.ctx = some k ∧
    i.cause = c.cause ∧
    i.src = (match c.target with
      | none => none
      | some (.source n) => some n
      | some x => (s.neighbour c.set x).bind fun island => (s.supplyOf island).source) ∧
    field i.w5 0 4 = r.code ∧ field i.w5 4 2 = c.kind.code ∧ i.w5.getLsbD 6 = c.converted ∧
    i.w5.getLsbD 7 = (c.transition == .closed) ∧ field i.w5 12 4 = routeCode c.target ∧
    (∀ n, (∀ m, c.oldSources.get m = true ↔ m = n) → field i.w5 8 4 = n.val + 1) ∧
    (∀ d x, (∀ n, ¬∀ m, c.oldSources.get m = true ↔ m = n) → c.oldTie = some d → s.kindOf d = .tie x →
      (x.val < c.set.lowest.val → field i.w5 8 4 = 5) ∧
      (c.set.lowest.val ≤ x.val → c.set.highest.val ≤ x.val → field i.w5 8 4 = 6)) ∧
    ((∀ n, ¬∀ m, c.oldSources.get m = true ↔ m = n) → c.oldTie = none → field i.w5 8 4 = 0) ∧
    i.w6.toNat = min ((s.ms - c.start).toNat / 10) 65535 ∧ ∀ d : DevId, i.w7.getLsbD d.val = c.withheld.get d)

/-! ## Report words (R28, R34) -/

/-- A processor write to a report word stores the current image, whatever is written, and the word leaves the dirty set;
so does a Write-back grant for the lowest dirty word. Here no context waits on the word (R28, R32, R34). -/
def Obligations.ReportWordsAreStored : Prop :=
  (∀ (s t : State) (a : Access) (off : Nat), s.grantsWrite .p a → s.granted .p = t → t.classify a.addr = .report off →
    off ≠ 0x202 → ¬(0x220 ≤ off ∧ off < 0x230) → t.steady →
    (off < 0x400 ∨ t.waitingOn (slotAt off) = none ∨ ∃ x ∈ slotOffsets (slotAt off), x ≠ off ∧ x ∈ t.dirty) →
    exec .reportWordWrite s = .next
      { t with image := t.image.write a.addr.toNat (t.reportImage off), dirty := t.dirty.filter (· != off) }) ∧
  (∀ (s t : State) (off : Nat) (offs : List Nat), s.grantsWriteBack → s.writeBackGranted = t → t.injections = [] →
    t.dirty = off :: offs → t.steady →
    (off < 0x400 ∨ t.waitingOn (slotAt off) = none ∨ ∃ x ∈ slotOffsets (slotAt off), x ≠ off ∧ x ∈ t.dirty) →
    exec .reportWriteBack s = .next
      { t with
        image := t.image.write (guardAddress t.store.page off).toNat (t.reportImage off),
        dirty := t.dirty.filter (· != off) })

/-- The store of the last dirty word of a marked slot, by a Write-back grant or a processor write, frees the context that
waits on it; so does a frame that takes the slot, here that of a scanner write into the guard page (R126, R173). The freeing applies a
copy that waits, once every context is FREE (R16), and takes a request that waits, here a MANUAL in closed transition whose
check holds (R50, R101, R102, R109, R129, R134); that the route device is set at the entry to SYNC_WAIT is the model's reading
(log 16). -/
def Obligations.MarkedSlotFreesItsContext : Prop :=
  (∀ (s t : State) (off : Nat) (offs : List Nat) (k : CtxId), s.grantsWriteBack → s.writeBackGranted = t →
    t.injections = [] → t.dirty = off :: offs → t.steady → 0x400 ≤ off → t.waitingOn (slotAt off) = some k →
    (∀ x ∈ slotOffsets (slotAt off), x ≠ off → x ∉ t.dirty) → t.queue = [] → t.store.pendingCopy = none →
    ∃ D, off ∉ D ∧ (∀ x ∈ t.dirty, x ≠ off → x ∈ D) ∧ (∀ x ∈ contextStatusOffsets k, x ∈ D) ∧
      exec .reportWriteBack s = .next
      { t with
        image := t.image.write (guardAddress t.store.page off).toNat (t.reportImage off),
        contexts := t.contexts.set k Context.blank,
        recorder := { t.recorder with marks := t.recorder.marks.set k none }, dirty := D }) ∧
  (∀ (s t : State) (a : Access) (off : Nat) (k : CtxId), s.grantsWrite .p a → s.granted .p = t →
    t.classify a.addr = .report off → t.steady → 0x400 ≤ off → t.waitingOn (slotAt off) = some k →
    (∀ x ∈ slotOffsets (slotAt off), x ≠ off → x ∉ t.dirty) → t.queue = [] → t.store.pendingCopy = none →
    ∃ D, off ∉ D ∧ (∀ x ∈ t.dirty, x ≠ off → x ∈ D) ∧ (∀ x ∈ contextStatusOffsets k, x ∈ D) ∧
      exec .reportWordWrite s = .next
      { t with
        image := t.image.write a.addr.toNat (t.reportImage off), contexts := t.contexts.set k Context.blank,
        recorder := { t.recorder with marks := t.recorder.marks.set k none }, dirty := D }) ∧
  (∀ (s t : State) (a : Access) (k : CtxId), s.grantsWrite .f a → s.granted .f = t →
    inGuardPage t.store.page a.addr = true → t.steady → t.waitingOn t.recorder.index = some k → t.queue = [] →
    t.store.pendingCopy = none →
    ∃ D, (∀ off ∈ t.dirty ++ t.frameMarks ++ contextStatusOffsets k, off ∈ D) ∧ exec .fieldWrite s = .next
      { t with
        contexts := t.contexts.set k Context.blank,
        recorder :=
          { t.recorded { cls := .writeRefused, detail := some .fieldWrite, w5 := a.addr, w6 := a.data, w7 := 1 } with
            marks := t.recorder.marks.set k none },
        dirty := D }) ∧
  (∀ (s t : State) (off : Nat) (offs : List Nat) (k : CtxId) (m : Memory), s.grantsWriteBack → s.writeBackGranted = t →
    t.injections = [] → t.dirty = off :: offs → t.steady → 0x400 ≤ off → t.waitingOn (slotAt off) = some k →
    (∀ x ∈ slotOffsets (slotAt off), x ≠ off → x ∉ t.dirty) → t.queue = [] → t.store.pendingCopy = some m →
    (∀ j, j ≠ k → (t.context j).state = .free) → t.latch.isSet = false → (∀ b, (t.section b).state ≠ .armed) →
    ∃ u, exec .reportWriteBack s = .next u ∧
      u.image = t.image.write (guardAddress t.store.page off).toNat (t.reportImage off) ∧
      u.context k = Context.blank ∧ (∀ j, (u.context j).state = .free) ∧
      u.recorder = { t.recorder with marks := t.recorder.marks.set k none } ∧
      u.store = { t.store with
        working := some (boardOf m), pendingCopy := none,
        status := if t.store.status = .pending then .applied else t.store.status } ∧
      ∀ b, (u.section b).state = (t.section b).state) ∧
  (∀ (s t v : State) (off : Nat) (offs : List Nat) (k j : CtxId) (e : Request) (n f : SrcId), s.grantsWriteBack →
    s.writeBackGranted = t → t.injections = [] → t.dirty = off :: offs → t.steady → 0x400 ≤ off →
    t.waitingOn (slotAt off) = some k → (∀ x ∈ slotOffsets (slotAt off), x ≠ off → x ∉ t.dirty) →
    t.store.pendingCopy = none → t.latch.isSet = false → t.queue = [e] → e.kind = .manual → e.transition = .closed →
    e.target = some (.source n) → e.lead = e.set.lowest → t.returnSet e.lead = e.set →
    t.manualBad e.set .closed e.target = false → t.fits n (t.setLoad e.set) = true → t.fedAvailable e.set = some f →
    v = { t with contexts := t.contexts.set k Context.blank } → v.nextFree = some j →
    ∃ u, exec .reportWriteBack s = .next u ∧
      u.image = t.image.write (guardAddress t.store.page off).toNat (t.reportImage off) ∧
      v.taken u j e
        { t.startsWith e with routeDevice := t.incomerOf n, phase := .syncWait, claim := .waiting } ∧
      u.sync = { t.sync with claims := t.sync.claims ++ [j] } ∧
      u.recorder = { t.recorder with marks := t.recorder.marks.set k none })

/-- A write to the attention word clears the bits written as one and stores the image after the clearing; ATN# is released
when no bit is left. A write to a device status word clears the flags written as one and stores the status word after the
clearing (R28, R55, R172). -/
def Obligations.ClearingWritesStoreTheImage : Prop :=
  (∀ (s t : State) (a : Access), s.grantsWrite .p a → s.granted .p = t → t.classify a.addr = .report 0x202 → t.steady →
    ∃ D, 0x202 ∉ D ∧ (∀ off ∈ t.dirty, off ≠ 0x202 → off ∈ D) ∧ ∃ u, exec .attentionClear s = .next u ∧ u =
      { t with
        recorder := { t.recorder with attention := t.recorder.attention &&& ~~~(a.data.setWidth 11) },
        image := t.image.write a.addr.toNat ((t.recorder.attention &&& ~~~(a.data.setWidth 11)).setWidth 16),
        dirty := D } ∧
      (u.atn = true ↔ t.recorder.attention &&& ~~~(a.data.setWidth 11) = 0)) ∧
  (∀ (s t : State) (a : Access) (d : DevId), s.grantsWrite .p a → s.granted .p = t →
    t.classify a.addr = .report (0x220 + d.val) → t.steady →
    ∃ D, 0x220 + d.val ∉ D ∧ (∀ off ∈ t.dirty, off ≠ 0x220 + d.val → off ∈ D) ∧
      ∃ u, exec .deviceFlagClear s = .next u ∧ u =
      { t with
        devices := t.devices.set d
          { t.device d with
            overrun := (t.device d).overrun && !a.data.getLsbD 8, fail := (t.device d).fail && !a.data.getLsbD 9,
            trip := (t.device d).trip && !a.data.getLsbD 10 },
        image := t.image.write a.addr.toNat (u.deviceWord d), dirty := D })

/-! ## The general control word -/

/-- COMMIT: a staged copy that fails is rejected with the failing offset and a frame; one that validates waits as the
pending copy while a context is not FREE (R15, R16); the first one is applied at once, and the part becomes GUARDING with
the staged copy and a new record for every device it names (R16, R17, R19). The part word and the reject-offset word are
both marked whenever the status or the offset changes (R14). That the frame's section, device, source and context are none
is the model's choice (log 36). -/
def Obligations.CommitRejectsPendsOrApplies : Prop :=
  (∀ (s t : State) (a : Access) (off : Nat), s.grantsWrite .p a → s.granted .p = t →
    t.classify a.addr = .control 0x100 → field a.data 0 3 = 1 → firstFailure t.store.page t.store.staged = some off →
    t.steady → t.slotUnmarked →
    ∃ D, (∀ x ∈ t.dirty ++ t.frameMarks, x ∈ D) ∧
      (t.store.status ≠ .rejected ∨ t.store.reject ≠ some off → 0x200 ∈ D ∧ 0x201 ∈ D) ∧ exec .commit s = .next
      { t with
        image := t.image.write a.addr.toNat 0, store := { t.store with status := .rejected, reject := some off },
        recorder := t.recorded { cls := .configRejected, w5 := BitVec.ofNat 16 off }, dirty := D }) ∧
  (∀ (s t : State) (a : Access), s.grantsWrite .p a → s.granted .p = t → t.classify a.addr = .control 0x100 →
    field a.data 0 3 = 1 → firstFailure t.store.page t.store.staged = none → t.steady → t.allFree = false →
    ∃ D, (∀ x ∈ t.dirty, x ∈ D) ∧ (t.store.status ≠ .pending ∨ t.store.reject ≠ none → 0x200 ∈ D ∧ 0x201 ∈ D) ∧
      exec .commit s = .next
      { t with
        image := t.image.write a.addr.toNat 0,
        store := { t.store with pendingCopy := some t.store.staged, status := .pending, reject := none }, dirty := D }) ∧
  (∀ (s t : State) (a : Access), s.grantsWrite .p a → s.granted .p = t → t.classify a.addr = .control 0x100 →
    field a.data 0 3 = 1 → firstFailure t.store.page t.store.staged = none → t.store.working = none → t.allFree = true →
    t.latch.isSet = false → t.queue = [] → (∀ b, (t.section b).state = .disarmed) → t.settled →
    ∃ u, exec .commit s = .next u ∧ u.image = t.image.write a.addr.toNat 0 ∧ u.guarding = true ∧
      u.store = { t.store with working := some (boardOf t.store.staged), pendingCopy := none, status := .applied,
                               reject := none } ∧
      0x200 ∈ u.dirty ∧ 0x201 ∈ u.dirty ∧
      ∀ d, ((boardOf t.store.staged).devices.get d).kind ≠ .unused →
        u.device d =
          { owner := .processor, tag := 0, observed := .unknown, available := false, tripped := false, pending := false,
            op := .idle, overrun := false, fail := false, trip := false, deferred := none })

/-- Application over a GUARDING board, every context FREE. First, no request waiting and no section ARMED: records and
queued injections are kept or built afresh (R17), a latched board takes its emergency-open devices, withheld sets and
borrow ties are trimmed, run demand is worked out (R18). Then the evaluations of R18: an ARMED section of an island that
needs supply and has a DISARMED section becomes HELD (R96); a queued RETURN whose set is no longer FED by an AVAILABLE
source leaves, its sections ARMED (R100, R102). -/
def Obligations.ApplicationOverAGuardingBoard : Prop :=
  ∀ (s t : State) (a : Access) (new : Board), s.grantsWrite .p a → s.granted .p = t →
    t.classify a.addr = .control 0x100 → field a.data 0 3 = 1 → firstFailure t.store.page t.store.staged = none →
    t.guarding = true → t.allFree = true → t.settled → new = boardOf t.store.staged →
    (t.queue = [] → (∀ b, (t.section b).state ≠ .armed) →
      ∃ u, exec .commit s = .next u ∧ u.image = t.image.write a.addr.toNat 0 ∧
        u.store = { t.store with working := some new, pendingCopy := none, status := .applied, reject := none } ∧
        (∀ d, u.device d = t.recordAfter new d) ∧
        (∀ e ∈ u.injections, e ∈ t.injections ∨ t.seizes new e.device) ∧
        (∀ e ∈ t.injections, (t.entry e.device).sameRecord (new.devices.get e.device) → ¬t.seizes new e.device →
          e ∈ u.injections) ∧
        (∀ d, ¬(t.entry d).sameRecord (new.devices.get d) → ¬t.seizes new d → ∀ e ∈ u.injections, e.device ≠ d) ∧
        (∀ d, t.seizes new d → u.countedClosed d = true →
          ⟨d, .opn, (u.device d).tag + 1, .emergency⟩ ∈ u.injections) ∧
        (∀ b, u.section b =
          { state := (t.section b).state,
            borrow := (t.section b).borrow.filter fun x => allDevices.any fun d => (new.devices.get d).kind == .tie x,
            withheld := Sixteen.ofFn fun d => (t.section b).withheld.get d && (new.devices.get d).kind == .feeder b }) ∧
        (∀ n, (u.source n).state = (t.source n).state ∧ (u.source n).health = (t.source n).health ∧
          (u.source n).ride = (t.source n).ride ∧ (u.source n).stab = (t.source n).stab ∧
          ((u.source n).demand = true ↔ (new.sources.get n).generator = true ∧ u.incomerClosed n = true) ∧
          ((new.sources.get n).generator = false → (u.source n).cool = none ∧ u.rq n = false)) ∧
        u.contexts = t.contexts ∧ u.sync = t.sync ∧ u.recorder = t.recorder ∧ u.queue = [] ∧
        u.latch.isSet = t.latch.isSet ∧ (t.store.status ≠ .applied → 0x200 ∈ u.dirty ∧ 0x201 ∈ u.dirty) ∧
        ∀ off ∈ queueOffsets ++ [0x210, 0x211, 0x212, 0x213, 0x218, 0x219, 0x21A, 0x21B] ++
          (allDevices.map fun d => 0x220 + d.val) ++ [0x230, 0x231, 0x232, 0x233, 0x234, 0x235], off ∈ u.dirty) ∧
    (t.queue = [] → (∀ b, (t.section b).state ≠ .transferring) →
      ∃ u, exec .commit s = .next u ∧ u.store.working = some new ∧
        ((∀ b, (t.section b).state = .armed →
            u.needsSupply (u.island b) = true ∧ ∃ c, (u.island b).get c = true ∧ (t.section c).state = .disarmed) →
          u.queue = [] ∧
            ∀ b, (u.section b).state = if (t.section b).state = .armed then .held else (t.section b).state)) ∧
    ∀ e : Request, t.queue = [e] → e.kind = .return → (∀ b, t.isLocked b = false) →
      ∃ u, exec .commit s = .next u ∧ u.store.working = some new ∧
        (u.fedAvailable (u.returnSet e.lead) = none → u.nothingToEvaluate →
          u.queue = [] ∧ u.contexts = t.contexts ∧ t.sectionsTo u e.set .armed)

/-- RESTART while GUARDING frees the contexts, releases the selector, empties the queue, disarms every section and marks
every report word; the injection queue, the latch, the log and the sources' states stay (R106). A copy that waits is
applied (R16, R17; here the latch is clear). While UNCONFIGURED it only marks the report words (R19). -/
def Obligations.RestartFreesEverything : Prop :=
  (∀ (s t : State) (a : Access), s.grantsWrite .p a → s.granted .p = t → t.classify a.addr = .control 0x100 →
    field a.data 0 3 = 2 → t.guarding = true → t.store.pendingCopy = none →
    ∃ D S, (∀ off ∈ statusOffsets ++ frameOffsets, off ∈ D) ∧
      (∀ n, (S.get n).state = (t.source n).state ∧ (S.get n).health = (t.source n).health ∧
        (S.get n).ride = (t.source n).ride ∧ (S.get n).stab = (t.source n).stab) ∧
      exec .restart s = .next
      { t with
        image := t.image.write a.addr.toNat 0, contexts := Three.fill Context.blank, freed := Three.fill false,
        recorder := { t.recorder with marks := Three.fill none },
        devices := Sixteen.ofFn fun d =>
          match (t.device d).owner with
          | .context _ => { t.device d with owner := .processor, deferred := none }
          | _ => t.device d,
        sync := { hold := none, claims := [], due := [] }, queue := [],
        sections := Four.fill { state := .disarmed, borrow := none, withheld := DevSet.none },
        sources := S, dirty := D }) ∧
  (∀ (s t : State) (a : Access), s.grantsWrite .p a → s.granted .p = t → t.classify a.addr = .control 0x100 →
    field a.data 0 3 = 2 → t.guarding = false → t.steady →
    ∃ D, (∀ off ∈ statusOffsets ++ frameOffsets, off ∈ D) ∧
      exec .restart s = .next { t with image := t.image.write a.addr.toNat 0, dirty := D }) ∧
  (∀ (s t : State) (a : Access) (m : Memory), s.grantsWrite .p a → s.granted .p = t →
    t.classify a.addr = .control 0x100 → field a.data 0 3 = 2 → t.guarding = true → t.store.pendingCopy = some m →
    t.latch.isSet = false →
    ∃ u, exec .restart s = .next u ∧ u.image = t.image.write a.addr.toNat 0 ∧
      u.store = { t.store with
        working := some (boardOf m), pendingCopy := none,
        status := if t.store.status = .pending then .applied else t.store.status } ∧
      (∀ k, u.context k = Context.blank) ∧ u.sync = { hold := none, claims := [], due := [] } ∧ u.queue = [] ∧
      (∀ b, u.section b = { state := .disarmed, borrow := none, withheld := DevSet.none }) ∧
      u.recorder = { t.recorder with marks := Three.fill none } ∧
      (∀ d, u.device d =
        match (t.recordAt (boardOf m) d).owner with
        | .context _ => { t.recordAt (boardOf m) d with owner := .processor, deferred := none }
        | _ => t.recordAt (boardOf m) d) ∧
      u.injections = (t.injections.filter fun e => (t.entry e.device).sameRecord ((boardOf m).devices.get e.device)) ∧
      ∀ off ∈ statusOffsets ++ frameOffsets, off ∈ u.dirty)

/-- EOP_CLEAR clears the latch and returns every EMERGENCY-owned device to PROCESSOR; with the latch clear, or while
UNCONFIGURED, it does nothing beyond the zero stored (R166). -/
def Obligations.EopClearReturnsDevices : Prop :=
  (∀ (s t : State) (a : Access), s.grantsWrite .p a → s.granted .p = t → t.classify a.addr = .control 0x100 →
    field a.data 0 3 = 4 → t.guarding = true → t.latch.isSet = true → t.queue = [] → t.steady →
    ∃ D, (∀ off ∈ t.dirty, off ∈ D) ∧ exec .eopClear s = .next
      { t with
        image := t.image.write a.addr.toNat 0, latch := { t.latch with isSet := false },
        devices := Sixteen.ofFn fun d =>
          if t.hasRecord d = true ∧ (t.device d).owner = .emergency then { t.device d with owner := .processor }
          else t.device d,
        dirty := D }) ∧
  (∀ (s t : State) (a : Access), s.grantsWrite .p a → s.granted .p = t → t.classify a.addr = .control 0x100 →
    field a.data 0 3 = 4 → t.guarding = false ∨ t.latch.isSet = false → t.steady →
    exec .eopClear s = .next { t with image := t.image.write a.addr.toNat 0 })

/-- A general control write that carries several bits comes out as the separate accesses would, COMMIT, then RESTART, then
EOP_CLEAR, with nothing granted between them (R27). `first` acts on its own bit in the first access, `next` on the others
in the second; a word with several bits is carried by the row of any of them (the model's choice, log 8). -/
def Obligations.GeneralControlBitsActInOrder : Prop :=
  ∀ (s u : State) (a : Access) (first next : Instr) (v w : Word), s.Inv → s.grantsWrite .p a →
    (s.granted .p).classify a.addr = .control 0x100 →
    ((first = .commit ∧ a.data.getLsbD 0 = true ∧ v = 1 ∧ w = (a.data &&& 6) ∧
        (next = .restart ∧ a.data.getLsbD 1 = true ∨ next = .eopClear ∧ a.data.getLsbD 2 = true)) ∨
      (first = .restart ∧ field a.data 0 3 = 6 ∧ v = 2 ∧ next = .eopClear ∧ w = 4)) →
    exec first (s.offering a v) = .next u →
    exec first s = exec next { u.offering a w with lastGranted := .w } ∧ exec next s = exec first s

/-! ## Section control words and manual requests -/

/-- ARM (R92): each named section that is DISARMED or HELD becomes ARMED, here where no island gives an evaluation anything
to do; a named section in LOCKOUT, or one DISARMED or HELD while latched or UNCONFIGURED, is refused with a frame; a write
that mixes both raises a frame for each refused section in ascending order. The frame holds the full address of the word,
where R92 says 101h: that is the model's reading (log 25). -/
def Obligations.ArmActsOnNamedSections : Prop :=
  (∀ (s t : State) (a : Access), s.grantsWrite .p a → s.granted .p = t → t.classify a.addr = .control 0x101 →
    t.guarding = true → t.latch.isSet = false → (∀ b : SecId, a.data.getLsbD b.val = true → (t.section b).state ≠ .lockout) →
    t.nothingToEvaluate → t.steady →
    ∃ D S, (∀ off ∈ t.dirty, off ∈ D) ∧
      (∀ b : SecId, S.get b =
        if a.data.getLsbD b.val = true ∧ ((t.section b).state = .disarmed ∨ (t.section b).state = .held) then
          { t.section b with state := .armed }
        else t.section b) ∧
      exec .arm s = .next { t with image := t.image.write a.addr.toNat 0, sections := S, dirty := D }) ∧
  (∀ (s t : State) (a : Access) (b : SecId), s.grantsWrite .p a → s.granted .p = t → t.classify a.addr = .control 0x101 →
    namedSections a.data = [b] →
    (t.section b).state = .lockout ∨
      (((t.section b).state = .disarmed ∨ (t.section b).state = .held) ∧ (t.latch.isSet = true ∨ t.guarding = false)) →
    t.steady → t.slotUnmarked →
    ∃ D, (∀ off ∈ t.dirty ++ t.frameMarks, off ∈ D) ∧ exec .arm s = .next
      { t with
        image := t.image.write a.addr.toNat 0,
        recorder := t.recorded
          { cls := .writeRefused, detail := some .armRefused, sec := some b, w5 := a.addr, w6 := a.data, w7 := 0 },
        dirty := D }) ∧
  (∀ (s t : State) (a : Access), s.grantsWrite .p a → s.granted .p = t → t.classify a.addr = .control 0x101 →
    (t.guarding = true → t.latch.isSet = false → t.nothingToEvaluate) → t.steady → t.noMarks →
    ∃ D S, (∀ off ∈ t.dirty, off ∈ D) ∧
      (∀ b : SecId, S.get b =
        if a.data.getLsbD b.val = true ∧ ((t.section b).state = .disarmed ∨ (t.section b).state = .held) ∧
            t.guarding = true ∧ t.latch.isSet = false then
          { t.section b with state := .armed }
        else t.section b) ∧
      exec .arm s = .next
        { t with
          image := t.image.write a.addr.toNat 0, sections := S,
          recorder := ((allFours.filter fun b => a.data.getLsbD b.val && ((t.section b).state == .lockout ||
              (((t.section b).state == .disarmed || (t.section b).state == .held) &&
                (t.latch.isSet || !t.guarding)))).foldl
            (fun v b => v.framed
              { cls := .writeRefused, detail := some .armRefused, sec := some b, w5 := a.addr, w6 := a.data, w7 := 0 })
            t).recorder,
          dirty := D })

/-- DISARM (R93): named sections that are ARMED or HELD become DISARMED; a QUEUED one withdraws its request, here where no
island gives an evaluation anything to do; while UNCONFIGURED the word is ignored. -/
def Obligations.DisarmActsOnNamedSections : Prop :=
  (∀ (s t : State) (a : Access), s.grantsWrite .p a → s.granted .p = t → t.classify a.addr = .control 0x102 →
    t.guarding = true →
    (∀ b : SecId, a.data.getLsbD b.val = true → (t.section b).state ≠ .queued ∧ (t.section b).state ≠ .transferring) →
    t.steady →
    ∃ D S, (∀ off ∈ t.dirty, off ∈ D) ∧
      (∀ b : SecId, S.get b =
        if a.data.getLsbD b.val = true ∧ ((t.section b).state = .armed ∨ (t.section b).state = .held) then
          { t.section b with state := .disarmed }
        else t.section b) ∧
      exec .disarm s = .next { t with image := t.image.write a.addr.toNat 0, sections := S, dirty := D }) ∧
  (∀ (s t : State) (a : Access) (b : SecId) (e : Request), s.grantsWrite .p a → s.granted .p = t →
    t.classify a.addr = .control 0x102 → t.guarding = true → namedSections a.data = [b] →
    (t.section b).state = .queued → t.requestOf b = some e → t.nothingToEvaluate → t.steady →
    ∃ D S, (∀ off ∈ t.dirty, off ∈ D) ∧
      (∀ c : SecId, S.get c =
        if c = b then { t.section c with state := .disarmed }
        else if e.set.get c = true then { t.section c with state := .armed }
        else t.section c) ∧
      exec .disarm s = .next
        { t with
          image := t.image.write a.addr.toNat 0, sections := S, queue := t.queue.filter (· != e), dirty := D }) ∧
  (∀ (s t : State) (a : Access), s.grantsWrite .p a → s.granted .p = t → t.classify a.addr = .control 0x102 →
    t.guarding = false → t.steady → exec .disarm s = .next { t with image := t.image.write a.addr.toNat 0 })

/-- DISARM of one section of a transfer's set ends the transfer DISARMED: the context keeps no device, the section is
DISARMED and the others of the set are HELD (R93, R103, R155). -/
def Obligations.DisarmEndsATransfer : Prop :=
  ∀ (s t : State) (a : Access) (b : SecId) (k : CtxId), s.grantsWrite .p a → s.granted .p = t →
    t.classify a.addr = .control 0x102 → t.guarding = true → namedSections a.data = [b] →
    (t.section b).state = .transferring → t.holder b = some k → t.steady → t.noMarks →
    ∃ u, exec .disarm s = .next u ∧ u.image = t.image.write a.addr.toNat 0 ∧
      (u.context k).state = .ending ∧ (u.context k).result = some .disarmed ∧ (∀ d, u.owns k d = false) ∧
      (u.section b).state = .disarmed ∧
      (∀ c : SecId, (t.context k).set.get c = true → c ≠ b → (u.section c).state = .held) ∧
      ∀ c : SecId, (t.context k).set.get c = false → u.section c = t.section c

/-- Disturbances that end a transfer, whatever its phase, its sections HELD: a TIE inside the set reported OPEN that was
counted closed, ISLAND_SPLIT (R153); a lock of a section, LOCKED (R154); a processor OPEN of the route device once it is to
close or has closed, OPERATOR_OPEN (R152); a trip under LOCKOUT of an INCOMER that leaves sections of the set UNFED, TRIPPED,
those sections in LOCKOUT (R103, R104, R150). That a trip is handled before the other notices of its word is the model's
choice (log 15). -/
def Obligations.DisturbancesEndATransfer : Prop :=
  (∀ (s t : State) (a : Access) (d : DevId) (k : CtxId), s.reports t a d .opened → (t.device d).owner = .context k →
    t.active k = true → t.tieInside d (t.context k).set = true → t.countedClosed d = true →
    (t.device d).observed ≠ .opened → t.steadyBut k → t.noMarks → t.noDeferred →
    ∃ u, exec .positionWord s = .next u ∧ t.ends u k .islandSplit .held ∧
      u.image = t.image.write a.addr.toNat a.data) ∧
  (∀ (s : State) (b : SecId) (k : CtxId), (s.locks.get b).change = true → (s.locks.get b).level = false →
    (s.section b).state = .transferring → s.holder b = some k → s.steadyBut k → s.noMarks → s.noDeferred →
    ∃ u, exec (.lockLevelRise b) s = .next u ∧ u.isLocked b = true ∧ s.ends u k .locked .held ∧ u.image = s.image) ∧
  (∀ (s t : State) (a : Access) (d : DevId) (k : CtxId), s.processorOpening t a d → (t.device d).owner = .context k →
    t.active k = true → (t.context k).routeDevice = some d →
    (t.context k).phase = .closing ∨ (t.context k).phase = .restoring ∨ (t.context k).phase = .closingParallel ∨
      (t.context k).phase = .openingOld →
    t.steady → t.noMarks → t.noDeferred →
    ∃ u, exec .processorOpen s = .next u ∧ t.ends u k .operatorOpen .held ∧
      u.image = t.image.write a.addr.toNat (commandWord .opn 0 (commandTag a.data))) ∧
  (∀ (s t : State) (a : Access) (d : DevId) (b : SecId) (n : SrcId) (k : CtxId) (c : Context), s.grantsWrite .f a →
    s.granted .f = t → t.classify a.addr = .position d → t.kindOf d = .incomer b n → a.data.getLsbD 2 = true →
    (t.device d).tripped = false →
    ((t.device d).owner = .context k ∨ t.ownedByNoContext d) → t.board.responses.treatAsLoss = false →
    (∀ j, t.active j = true ↔ j = k) → t.context k = c → t.queue = [] →
    (∀ x, (t.section x).state = .transferring ↔ c.set.get x = true) → t.steadyBut k → t.noMarks → t.noDeferred →
    ∃ u, exec .positionWord s = .next u ∧ (u.device d).trip = true ∧
      (u.supply b = .unfed → (∃ x, (u.island b).get x = true ∧ c.set.get x = true) →
        u.endedWith k .tripped ∧
        u.recorder = (t.framed
          { cls := .protectionTrip, sec := some b, dev := some d, src := some n, ctx := t.ownerContext d,
            cause := (t.ownerContext d).bind fun j => (t.context j).cause }).recordedEnd u k .tripped ∧
        ∀ x, (u.section x).state =
          if (u.island b).get x = true then .lockout
          else if c.set.get x = true then .held
          else (t.section x).state))

/-- A processor OPEN of a device that a context owns (R152): in AWAIT_SOURCE it is the command alone; in OPENING, of a device
of the opening, it counts as the context's own and settles by its own result (that an earlier failure is forgotten is the
model's choice, log 32); in SYNC_WAIT, of the old incomer or the old borrow tie, the context waits for it with its reroute
mark; in RESTORING the feeder leaves the restore list. -/
def Obligations.OperatorOpensACapturedDevice : Prop :=
  ∀ (s t : State) (a : Access) (d : DevId) (k : CtxId) (c : Context) (x : Device) (q : List Injection),
    s.processorOpening t a d → (t.device d).owner = .context k → t.active k = true → t.context k = c →
    t.tieInside d c.set = false → t.steady → (t.device d).observed ≠ .opened →
    x = { t.device d with
      tag := commandTag a.data, pending := true, deferred := none,
      op := .inProgress .opn (t.ms + BitVec.ofNat 32 (t.entry d).limit) } →
    q = (t.injections.filter fun e => !(e.device == d)) →
    (c.phase = .awaitSource →
      ∃ D, (∀ off ∈ t.dirty, off ∈ D) ∧ exec .processorOpen s = .next
        { t with
          image := t.image.write a.addr.toNat (commandWord .opn 0 (commandTag a.data)),
          devices := t.devices.set d x, injections := q, dirty := D }) ∧
    (c.phase = .opening → c.routeDevice ≠ some d →
      c.opening.get d = true ∨ c.abandoned.get d = true ∨ c.oldTie = some d ∨
        (∃ n, t.incomerSource d = some n ∧ c.oldSources.get n = true) ∨ c.shed.get d = true ∨ c.restored.get d = true →
      ∃ D, (∀ off ∈ t.dirty, off ∈ D) ∧ exec .processorOpen s = .next
        { t with
          image := t.image.write a.addr.toNat (commandWord .opn 0 (commandTag a.data)),
          devices := t.devices.set d x, injections := q,
          contexts := t.contexts.set k
            { c with
              sent := c.sent.set d true, opening := c.opening.set d true, failed := c.failed.set d false },
          dirty := D }) ∧
    (c.phase = .syncWait → c.claim = .waiting → c.timer = none →
      c.oldTie = some d ∨ (∃ n, t.incomerSource d = some n ∧ c.oldSources.get n = true) →
      ∃ D, (∀ off ∈ t.dirty, off ∈ D) ∧ exec .processorOpen s = .next
        { t with
          image := t.image.write a.addr.toNat (commandWord .opn 0 (commandTag a.data)),
          devices := t.devices.set d x,
          injections := q.filter fun e => !(e.code == .cls && e.owner == .context k),
          contexts := t.contexts.set k { c.sentBack with sent := c.sent.set d true, reroute := true },
          sync := { t.sync with claims := t.sync.claims.filter (· != k), due := t.sync.due.filter (· != k) },
          dirty := D }) ∧
    (∀ f y, c.phase = .restoring → c.routeDevice ≠ some d → d ∈ c.restoreList.drop c.cursor →
      (c.restoreList.filter (· != d)).drop c.cursor ≠ [] → c.timer = some (.stagger, y) →
      f = (if c.restoring = some d then none else c.restoring) →
      ∃ D, (∀ off ∈ t.dirty, off ∈ D) ∧ exec .processorOpen s = .next
        { t with
          image := t.image.write a.addr.toNat (commandWord .opn 0 (commandTag a.data)),
          devices := t.devices.set d x, injections := q,
          contexts := t.contexts.set k
            { c with
              restoreList := c.restoreList.filter (· != d), restored := c.restored.set d false, restoring := f },
          dirty := D })

/-- RELEASE moves each named section from LOCKOUT to DISARMED and changes nothing else; while UNCONFIGURED it is ignored; a
section released can be armed, but a breaker whose trip flag is set is no usable route (R94). -/
def Obligations.ReleaseTakesSectionsOutOfLockout : Prop :=
  (∀ (s t : State) (a : Access), s.grantsWrite .p a → s.granted .p = t → t.classify a.addr = .control 0x103 →
    t.guarding = true → t.steady →
    ∃ D S, (∀ off ∈ t.dirty, off ∈ D) ∧
      (∀ b : SecId, S.get b =
        if a.data.getLsbD b.val = true ∧ (t.section b).state = .lockout then { t.section b with state := .disarmed }
        else t.section b) ∧
      exec .release s = .next { t with image := t.image.write a.addr.toNat 0, sections := S, dirty := D }) ∧
  (∀ (s t : State) (a : Access), s.grantsWrite .p a → s.granted .p = t → t.classify a.addr = .control 0x103 →
    t.guarding = false → t.steady → exec .release s = .next { t with image := t.image.write a.addr.toNat 0 }) ∧
  (∀ (s : State) (k : CtxId) (ignoreState : Bool) (r : Route) (d : DevId),
    s.routeDeviceFor (s.context k).set r = some d → (s.device d).trip = true → s.usable k ignoreState r = false) ∧
  (∀ (s : State) (b : SecId), (s.section b).state = .disarmed → s.armable b = true)

/-- MANUAL_REQUEST (R95): without GO nothing is asked; a refused request raises a frame; an accepted one joins the queue's
tail with its return set, here while no request can be taken. The frame holds the full address of the word, where R95 says
104h + n (the model's reading, log 25), and its source and context are none (the model's choice, log 36); the entry keeps
the data offered (the model's choice, log 20). -/
def Obligations.ManualRequestIsRefusedOrQueued : Prop :=
  (∀ (s t : State) (a : Access) (b : SecId), s.grantsWrite .p a → s.granted .p = t →
    t.classify a.addr = .control (0x104 + b.val) → a.data.getLsbD 0 = false → t.steady →
    exec .manualRequest s = .next { t with image := t.image.write a.addr.toNat 0 }) ∧
  (∀ (s t : State) (a : Access) (b : SecId), s.grantsWrite .p a → s.granted .p = t →
    t.classify a.addr = .control (0x104 + b.val) → a.data.getLsbD 0 = true → t.manualRefused b a.data = true →
    t.steady → t.slotUnmarked →
    ∃ D, (∀ off ∈ t.dirty ++ t.frameMarks, off ∈ D) ∧ exec .manualRequest s = .next
      { t with
        image := t.image.write a.addr.toNat 0,
        recorder := t.recorded
          { cls := .writeRefused, detail := some .requestRefused, sec := some b, w5 := a.addr, w6 := a.data, w7 := 0 },
        dirty := D }) ∧
  (∀ (s t : State) (a : Access) (b : SecId), s.grantsWrite .p a → s.granted .p = t →
    t.classify a.addr = .control (0x104 + b.val) → a.data.getLsbD 0 = true → t.manualRefused b a.data = false →
    t.takingClosed → t.steady →
    ∃ D S, (∀ off ∈ t.dirty, off ∈ D) ∧
      (∀ c : SecId, S.get c =
        if (t.returnSet b).get c = true then { t.section c with state := .queued } else t.section c) ∧
      exec .manualRequest s = .next
        { t with
          image := t.image.write a.addr.toNat 0, sections := S, dirty := D,
          queue := t.queue ++
            [{ lead := (t.returnSet b).lowest, set := t.returnSet b, kind := .manual,
               transition := if a.data.getLsbD 1 = true then .closed else .opn, target := routeOf (field a.data 4 4),
               cause := none, offered := a.data }] })

/-- A manual request is refused exactly when one of the grounds of R95 holds, for the return set `x` of the section. -/
def Obligations.ManualRequestGrounds : Prop :=
  ∀ (s : State) (b : SecId) (w : Word) (x : FourSet), s.returnSet b = x →
    (s.manualRefused b w = true ↔
      s.guarding = false ∨ s.latch.isSet = true ∨
      (∃ c, x.get c = true ∧ ((s.section c).state ≠ .armed ∨ s.isLocked c = true)) ∨
      field w 4 4 = 0 ∨ 6 < field w 4 4 ∨
      (∃ r, routeOf (field w 4 4) = some r ∧
        (s.routeDeviceFor x r = none ∨
          (∃ d, s.routeDeviceFor x r = some d ∧
            (s.connects d x = false ∨ (s.device d).owner ≠ .processor ∨ s.usableDevice d = false ∨
              s.countedClosed d = true)) ∨
          s.routeSource x r = none ∨ (∃ n, s.routeSource x r = some n ∧ (s.source n).state ≠ .available) ∨
          (w.getLsbD 1 = true ∧
            ((∀ n, r ≠ .source n) ∨
              (∀ f, s.setSupply x = .fed f → (s.source f).state ≠ .available ∨ r = .source f))))))

/-- A MANUAL that a FREE context takes at once (R50, R101, R102, R109), with the queue otherwise empty: the context captures
its devices. In open transition it takes the fixed target, here a SOURCE route that fits, into OPENING, where an OPEN is
queued for each device to open (R112, R115); in closed transition, the check holding, it claims the selector in SYNC_WAIT
(R129, R134); that the route device is set there, at the entry, is the model's reading (log 16). -/
def Obligations.RequestIsTaken : Prop :=
  ∀ (s t : State) (a : Access) (b : SecId) (e : Request) (k : CtxId) (n : SrcId) (d : DevId) (c : Context),
    s.grantsWrite .p a → s.granted .p = t → t.classify a.addr = .control (0x104 + b.val) → a.data.getLsbD 0 = true →
    t.manualRefused b a.data = false → routeOf (field a.data 4 4) = some (.source n) → t.incomerOf n = some d →
    e = { lead := (t.returnSet b).lowest, set := t.returnSet b, kind := .manual,
          transition := if a.data.getLsbD 1 = true then .closed else .opn, target := some (.source n), cause := none,
          offered := a.data } →
    c = t.startsWith e → t.returnSet e.lead = e.set → t.queue = [] → t.store.pendingCopy = none →
    t.latch.isSet = false → t.nextFree = some k → t.steady →
    (∀ x, a.data.getLsbD 1 = false → t.fits n (t.shedLoad e.set) = true → t.opens c DevSet.none = x →
      (∀ o, x.get o = true → t.captures e o = true) → DevSet.isEmpty x = false →
      ∃ u, exec .manualRequest s = .next u ∧ u.image = t.image.write a.addr.toNat 0 ∧
        t.taken u k e (t.openingOn c DevSet.none x (.source n) d) ∧
        u.injections = t.openingQueue k x (t.capturedQueue k e) ∧ u.recorder = t.recorder ∧ u.sync = t.sync) ∧
    (a.data.getLsbD 1 = true → t.fits n (t.setLoad e.set) = true →
      ∃ u, exec .manualRequest s = .next u ∧ u.image = t.image.write a.addr.toNat 0 ∧
        t.taken u k e { c with routeDevice := some d, phase := .syncWait, claim := .waiting } ∧
        u.injections = t.capturedQueue k e ∧ u.recorder = t.recorder ∧
        u.sync = { t.sync with claims := t.sync.claims ++ [k] })

/-! ## The scanner and the injections -/

/-- A scanner read of a command word without a queued injection returns the memory word and marks the command taken (R25,
R40). A queued injection at its grant, by the Write-back Unit or by a scanner read: where the guard passes it its word is
stored, and returned to the scanner; where it refuses, memory stays and the scanner reads the word that stood (R32, R33,
R72, R177). -/
def Obligations.CommandReadsAndInjections : Prop :=
  (∀ (s t : State) (a : Access) (d : DevId), s.grantsCommandRead a d → s.serveReads = t → t.queued d = none → t.steady →
    ∃ D, (∀ off ∈ t.dirty, off ∈ D) ∧ exec .scannerCommandRead s = .next
      { t with
        fPort := { access := none, data := t.readImage a.addr }, lastGranted := .f,
        devices := t.devices.set d { t.device d with pending := false }, dirty := D }) ∧
  (∀ (s : State) (e : Injection) (es : List Injection) (x : Bool), s.grantsWriteBack → s.injections = e :: es →
    s.judge (.injection e.owner) e.device (some e.code) = .pass x →
    ∃ u, exec .injectionWrite s = .next u ∧
      u.image = s.image.write (s.entry e.device).command.toNat (commandWord e.code 1 e.tag)) ∧
  (∀ (s : State) (e : Injection) (es : List Injection) (r : Detail), s.grantsWriteBack → s.injections = e :: es →
    s.judge (.injection e.owner) e.device (some e.code) = .refuse r →
    ∃ u, exec .injectionWrite s = .next u ∧ u.image = s.image) ∧
  (∀ (s : State) (a : Access) (d : DevId) (e : Injection) (x : Bool), s.grantsCommandRead a d → s.queued d = some e →
    s.image.wf = true → s.judge (.injection e.owner) d (some e.code) = .pass x →
    ∃ u, exec .scannerCommandRead s = .next u ∧ u.fPort.access = none ∧ u.fPort.data = commandWord e.code 1 e.tag ∧
      u.image = s.image.write (s.entry d).command.toNat (commandWord e.code 1 e.tag)) ∧
  (∀ (s : State) (a : Access) (d : DevId) (e : Injection) (r : Detail), s.grantsCommandRead a d → s.queued d = some e →
    s.judge (.injection e.owner) d (some e.code) = .refuse r →
    ∃ u, exec .scannerCommandRead s = .next u ∧ u.fPort.access = none ∧ u.fPort.data = s.readImage a.addr ∧
      u.image = s.image)

/-- An injection for a device that no context owns, at a Write-back grant, with no command pending: passed it is taken with
the pending flag set, refused it raises a frame; in both it leaves the queue (R32, R39, R72). -/
def Obligations.InjectionIsTaken : Prop :=
  (∀ (s t : State) (e : Injection) (es : List Injection), s.grantsWriteBack → s.writeBackGranted = t →
    t.injections = e :: es → t.judge (.injection e.owner) e.device (some e.code) = .pass false →
    t.ownedByNoContext e.device → (t.device e.device).pending = false → t.steady →
    ∃ D, (∀ off ∈ t.dirty, off ∈ D) ∧ exec .injectionWrite s = .next
      { t with
        image := t.image.write (t.entry e.device).command.toNat (commandWord e.code 1 e.tag),
        injections := t.injections.filter fun x => !(x.device == e.device),
        devices := t.devices.set e.device
          { t.device e.device with
            tag := e.tag, pending := true,
            op := if (t.device e.device).observed = e.code.target then .idle
              else .inProgress e.code (t.ms + BitVec.ofNat 32 (t.entry e.device).limit) },
        dirty := D }) ∧
  (∀ (s t : State) (e : Injection) (es : List Injection) (r : Detail), s.grantsWriteBack → s.writeBackGranted = t →
    t.injections = e :: es → t.judge (.injection e.owner) e.device (some e.code) = .refuse r →
    t.ownedByNoContext e.device → t.steady → t.slotUnmarked →
    ∃ D, (∀ off ∈ t.dirty ++ t.frameMarks, off ∈ D) ∧ exec .injectionWrite s = .next
      { t with
        injections := t.injections.filter fun x => !(x.device == e.device),
        recorder := t.recorded
          { cls := .writeRefused, detail := some .injectionRefused, sec := t.frameSection e.device, dev := some e.device,
            src := t.incomerSource e.device,
            ctx := match e.owner with | .context k => some k | .emergency => none,
            cause := match e.owner with
              | .context k => if t.active k = true then (t.context k).cause else none
              | .emergency => none,
            w5 := (t.entry e.device).command, w6 := commandWord e.code 1 e.tag,
            w7 := BitVec.ofNat 16 (2 + 16 * r.code) },
        dirty := D })

/-- A position word that repeats the last one only stores (R45). One of a device that no context owns, without a rise of the
tripped indication: the record takes position, availability and indication, an operation that has reached its target ends;
where the position changes, a TIE that opens clears the borrow ties of its position, a FEEDER that closes leaves its
withheld set, and run demand is worked out (R9, R43, R84, R85, R105). That a word which repeats the position leaves borrow
ties and withheld sets, though R9 and R105 speak of any word that reports it, is the model's reading (log 21). -/
def Obligations.PositionWordIsTaken : Prop :=
  (∀ (s t : State) (a : Access) (d : DevId), s.grantsWrite .f a → s.granted .f = t → t.classify a.addr = .position d →
    positionOf a.data = (t.device d).observed → a.data.getLsbD 2 = (t.device d).tripped →
    a.data.getLsbD 3 = (t.device d).available →
    (∀ c e, (t.device d).op = .inProgress c e → c.target ≠ (t.device d).observed) → t.steady →
    exec .positionWord s = .next { t with image := t.image.write a.addr.toNat a.data }) ∧
  (∀ (s t v : State) (a : Access) (d : DevId) (p q : Position), s.reports t a d p → t.ownedByNoContext d → t.steady →
    (t.device d).observed = q →
    v = { t with
      devices := t.devices.set d
        { t.device d with
          observed := p, tripped := a.data.getLsbD 2, available := a.data.getLsbD 3,
          op := match (t.device d).op with
            | .inProgress c e => if p = c.target then .idle else .inProgress c e
            | .idle => .idle } } →
    ∃ D S R, (∀ off ∈ t.dirty, off ∈ D) ∧
      (∀ b, S.get b =
        { state := (t.section b).state,
          borrow := (t.section b).borrow.filter fun x => !(t.kindOf d == .tie x && p == .opened && q != .opened),
          withheld := Sixteen.ofFn fun f => (t.section b).withheld.get f &&
            !(f == d && t.kindOf d == .feeder b && p == .closed && q != .closed) }) ∧
      (∀ n, R.get n =
        if p = q then t.source n
        else if (t.sourceEntry n).generator = false then { t.source n with demand := false, cool := none }
        else if v.awaits n = true ∨ v.incomerClosed n = true then { t.source n with demand := true, cool := none }
        else if (t.source n).demand = true then
          { t.source n with demand := false, cool := some (t.ms + BitVec.ofNat 32 (t.sourceEntry n).coolDown) }
        else t.source n) ∧
      exec .positionWord s = .next
        { v with image := t.image.write a.addr.toNat a.data, sections := S, sources := R, dirty := D })

/-- A rise of the tripped indication: of a FEEDER that no context owns, the trip flag and a frame; of an INCOMER or a TIE
under LOCKOUT, with no transfer and no request, every section that it leaves UNFED is locked out; of an INCOMER under
TREAT_AS_LOSS, its island UNFED with every section ARMED and unlocked, a SUPPLY is queued for it with the frame's slot as
cause, here while no request can be taken (R46, R104). That the FEEDER's word, which repeats its position, leaves the
withheld sets, though R105 speaks of any word that reports it CLOSED, is the model's reading (log 21). -/
def Obligations.TripIsFramedAndLocksOut : Prop :=
  (∀ (s t : State) (a : Access) (d : DevId) (b : SecId), s.grantsWrite .f a → s.granted .f = t →
    t.classify a.addr = .position d → t.kindOf d = .feeder b → a.data.getLsbD 2 = true → (t.device d).tripped = false →
    positionOf a.data = (t.device d).observed → (t.device d).op = .idle → t.ownedByNoContext d → t.steady →
    t.slotUnmarked →
    ∃ D, (∀ off ∈ t.dirty ++ t.frameMarks, off ∈ D) ∧ exec .positionWord s = .next
      { t with
        image := t.image.write a.addr.toNat a.data,
        devices := t.devices.set d { t.device d with tripped := true, available := a.data.getLsbD 3, trip := true },
        recorder := t.recorded { cls := .protectionTrip, sec := some b, dev := some d },
        dirty := D }) ∧
  (∀ (s t : State) (a : Access) (d : DevId), s.grantsWrite .f a → s.granted .f = t →
    t.classify a.addr = .position d → (∃ b n, t.kindOf d = .incomer b n) ∨ (∃ x, t.kindOf d = .tie x) →
    a.data.getLsbD 2 = true → (t.device d).tripped = false → t.ownedByNoContext d → t.noTransfer → t.queue = [] →
    (∀ c, (t.section c).state ≠ .transferring) → t.steady → t.slotUnmarked →
    ∃ u, exec .positionWord s = .next u ∧ (u.device d).trip = true ∧ (u.device d).observed = positionOf a.data ∧
      u.image = t.image.write a.addr.toNat a.data ∧
      (t.board.responses.treatAsLoss = false →
        u.recorder = t.recorded
          { cls := .protectionTrip, sec := t.frameSection d, dev := some d, src := t.incomerSource d } ∧
        ∀ c, (u.section c).state =
          if ∃ b ∈ (t.kindOf d).sections, u.supply b = .unfed ∧ (u.island b).get c = true then .lockout
          else (t.section c).state) ∧
      ∀ b n, t.board.responses.treatAsLoss = true → t.takingClosed → t.kindOf d = .incomer b n → u.supply b = .unfed →
        (∀ c, (u.island b).get c = true → (t.section c).state = .armed ∧ t.isLocked c = false) →
        u.recorder = t.recorded
          { cls := .protectionTrip, sec := some b, dev := some d, src := some n } ∧
        u.queue = [{ lead := (u.island b).lowest, set := u.island b, kind := .supply, transition := .opn, target := none,
                     cause := some t.recorder.index, offered := 0 }] ∧
        t.sectionsTo u (u.island b) .queued)

/-! ## Sources (R78 to R86) -/

/-- A filtered health level falls: AVAILABLE enters DIP with its ride-through, PROVING falls back to FAILED, in FAILED and
DIP only the level moves. It rises: FAILED enters PROVING with its stability time, DIP returns to AVAILABLE with a
SOURCE_DIP frame of the dip's length, capped; in PROVING and AVAILABLE only the level moves (R78, R80, R81). -/
def Obligations.HealthLevelsTurn : Prop :=
  (∀ (s : State) (n : SrcId) (x : Source), s.source n = x → x.health.change = true → x.health.level = true → s.steady →
    (x.state = .proving → s.noTransfer) →
    ∃ D, (∀ off ∈ s.dirty, off ∈ D) ∧ exec (.healthLevelFall n) s = .next
      { s with
        sources := s.sources.set n
          { x with
            health := { level := false, count := x.health.count, change := false },
            state := match x.state with | .available => .dip | .proving => .failed | y => y,
            ride := match x.state with
              | .available => some (s.ms + BitVec.ofNat 32 (s.sourceEntry n).rideThrough)
              | _ => x.ride,
            dipStart := match x.state with | .available => s.ms | _ => x.dipStart,
            stab := match x.state with | .proving => none | _ => x.stab },
        dirty := D }) ∧
  (∀ (s : State) (n : SrcId) (x : Source), s.source n = x → x.health.change = true → x.health.level = false → s.steady →
    x.state ≠ .dip →
    ∃ D, (∀ off ∈ s.dirty, off ∈ D) ∧ exec (.healthLevelRise n) s = .next
      { s with
        sources := s.sources.set n
          { x with
            health := { level := true, count := x.health.count, change := false },
            state := match x.state with | .failed => .proving | y => y,
            stab := match x.state with
              | .failed => some (s.ms + BitVec.ofNat 32 (s.sourceEntry n).stability)
              | _ => x.stab },
        dirty := D }) ∧
  (∀ (s : State) (n : SrcId) (x : Source), s.source n = x → x.health.change = true → x.health.level = false → s.steady →
    s.slotUnmarked → x.state = .dip →
    ∃ D, (∀ off ∈ s.dirty ++ s.frameMarks, off ∈ D) ∧ exec (.healthLevelRise n) s = .next
      { s with
        sources := s.sources.set n
          { x with
            health := { level := true, count := x.health.count, change := false }, state := .available, ride := none },
        recorder := s.recorded
          { cls := .sourceDip, sec := (s.incomerOf n).bind s.frameSection, dev := s.incomerOf n, src := some n,
            w5 := BitVec.ofNat 16 (min (s.ms - x.dipStart).toNat 65535) },
        dirty := D })

/-- The ride-through of a source in DIP expires: FAILED, and a SOURCE_LOSS frame; the stability time of one in PROVING:
AVAILABLE, and a SOURCE_RETURN frame; under REPORT that is all for a transfer which the source does not concern (R79 to
R83, R114, R144, R146). The cool-down of a generator expires: it stops, and RQ falls where no run demand holds it; while a
GENERATOR's incomer is observed CLOSED its RQ line is high, and a UTILITY's is low (R85, R86). -/
def Obligations.SourceTimersExpire : Prop :=
  (∀ (s : State) (n : SrcId), (s.source n).state = .dip → (s.source n).ride = some s.ms →
    s.board.responses.lossTransfer = false →
    (∀ k, s.active k = true → s.targetSource (s.context k) ≠ some n ∧
      ((s.context k).phase ≠ .syncWait ∨ (s.context k).oldSources.get n = false ∨ (s.context k).claim = .none)) →
    s.steady → s.slotUnmarked →
    ∃ D, (∀ off ∈ s.dirty ++ s.frameMarks, off ∈ D) ∧ exec (.rideThroughExpiry n) s = .next
      { s with
        sources := s.sources.set n { s.source n with state := .failed, ride := none },
        recorder := s.recorded
          { cls := .sourceLoss, sec := (s.incomerOf n).bind s.frameSection, dev := s.incomerOf n, src := some n },
        dirty := D }) ∧
  (∀ (s : State) (n : SrcId), (s.source n).state = .proving → (s.source n).stab = some s.ms →
    s.board.responses.returnReturn = false → (∀ k, s.active k = true → (s.context k).phase ≠ .awaitSource) →
    s.steady → s.slotUnmarked →
    ∃ D, (∀ off ∈ s.dirty ++ s.frameMarks, off ∈ D) ∧ exec (.stabilityExpiry n) s = .next
      { s with
        sources := s.sources.set n { s.source n with state := .available, stab := none },
        recorder := s.recorded
          { cls := .sourceReturn, sec := (s.incomerOf n).bind s.frameSection, dev := s.incomerOf n, src := some n },
        dirty := D }) ∧
  (∀ (s : State) (n : SrcId), (s.source n).cool = some s.ms → s.steady →
    ∃ D, (∀ off ∈ s.dirty, off ∈ D) ∧ ∃ u, exec (.coolDownExpiry n) s = .next u ∧
      u = { s with sources := s.sources.set n { s.source n with cool := none }, dirty := D } ∧
      ((s.source n).demand = false → u.rq n = false)) ∧
  (∀ (s : State) (n : SrcId), s.Inv →
    ((s.sourceEntry n).generator = true → s.incomerClosed n = true → s.rq n = true) ∧
    ((s.sourceEntry n).generator = false → s.rq n = false))

/-- Under TRANSFER the loss queues a SUPPLY for the one island that the source feeds, every section of it ARMED and
unlocked, with the SOURCE_LOSS slot as cause; here no transfer runs and none can be taken (R82, R96, R98, R99). -/
def Obligations.SourceLossQueuesASupply : Prop :=
  ∀ (s : State) (n : SrcId) (b : SecId), (s.source n).state = .dip → (s.source n).ride = some s.ms →
    s.board.responses.lossTransfer = true → s.fedIslands n = [b] →
    (∀ c, (s.island b).get c = true → (s.section c).state = .armed ∧ s.isLocked c = false) → s.queue = [] →
    s.takingClosed → s.noTransfer → s.steady → s.slotUnmarked →
    ∃ u, exec (.rideThroughExpiry n) s = .next u ∧ (u.source n).state = .failed ∧
      u.queue = [{ lead := b, set := s.island b, kind := .supply, transition := .opn, target := none,
                   cause := some s.recorder.index, offered := 0 }] ∧
      (∀ c, (u.section c).state = if (s.island b).get c = true then .queued else (s.section c).state) ∧
      u.image = s.image ∧ u.devices = s.devices ∧ u.injections = s.injections ∧ u.contexts = s.contexts

/-- A source lost in a transfer, under REPORT (R144 to R146): the target's loss in OPENING sets the reroute mark, the target
excluded; in SYNC_WAIT with a claim, and in CLOSING_PARALLEL, where an OPEN is queued for the route device, it ends the
transfer RETURN_CANCELLED, its sections ARMED; the old source's loss in SYNC_WAIT with a claim goes on in open transition to
the fixed target, here usable and with something to open (R112, R115); that its device is not among the abandoned ones is the
model's reading (log 16). -/
def Obligations.SourceLossInATransfer : Prop :=
  ∀ (s : State) (k : CtxId) (n : SrcId) (c : Context) (i : Incident), (s.source n).state = .dip →
    (s.source n).ride = some s.ms → s.board.responses.lossTransfer = false → (∀ j, s.active j = true ↔ j = k) →
    s.context k = c → s.steady → s.noMarks →
    i = { cls := .sourceLoss, sec := (s.incomerOf n).bind s.frameSection, dev := s.incomerOf n, src := some n } →
    (c.target = some (.source n) → c.phase = .opening → DevSet.isEmpty c.opening = false → c.claim = .none →
      c.timer = none → c.excluded.contains (.source n) = false →
      ∃ D, (∀ off ∈ s.dirty ++ s.frameMarks, off ∈ D) ∧ exec (.rideThroughExpiry n) s = .next
        { s with
          sources := s.sources.set n { s.source n with state := .failed, ride := none }, recorder := s.recorded i,
          contexts := s.contexts.set k
            { c.sentBack with excluded := c.excluded ++ [.source n], reroute := true },
          injections := s.injections.filter fun e => !(e.code == .cls && e.owner == .context k), dirty := D }) ∧
    (c.target = some (.source n) → (c.phase = .syncWait ∧ c.claim ≠ .none) ∨ c.phase = .closingParallel →
      s.noDeferred →
      ∃ u, exec (.rideThroughExpiry n) s = .next u ∧ u.image = s.image ∧
        (∀ d, c.phase = .closingParallel → c.routeDevice = some d → s.owns k d = true → s.countedClosed d = true →
          ∃ e ∈ u.injections, e.device = d ∧ e.code = .opn) ∧
        (u.nothingToEvaluate → (s.framed i).ends u k .returnCancelled .armed)) ∧
    (∀ m d x, m ≠ n → c.target = some (.source m) → c.fixed = true → c.oldSources.get n = true → c.phase = .syncWait →
      c.claim = .waiting → c.timer = none → c.routeDevice = some d → s.incomerOf m = some d →
      c.excluded.contains (.source m) = false → s.usable k false (.source m) = true →
      s.opens c (c.abandoned.set d false) = x → s.ownsAll k x → DevSet.isEmpty x = false →
      ∃ u, exec (.rideThroughExpiry n) s = .next u ∧ u.image = s.image ∧ u.recorder = s.recorded i ∧
        u.context k = s.openingOn c.sentBack (c.abandoned.set d false) x (.source m) d ∧
        u.injections = s.openingQueue k x
          (s.injections.filter fun e => !(e.code == .cls && e.owner == .context k)) ∧
        u.sync = { s.sync with claims := s.sync.claims.filter (· != k), due := s.sync.due.filter (· != k) } ∧
        u.devices = s.devices ∧ u.sections = s.sections)

/-! ## Locks, devices -/

/-- A filtered lock level turns: the section is locked or unlocked, memory stays; on a section that is DISARMED, HELD or in
LOCKOUT a rise changes nothing else; on a QUEUED section it withdraws the request and its sections become HELD; a fall with
nothing to evaluate changes nothing else (R77, R98, R100). -/
def Obligations.LockLevelsTurn : Prop :=
  (∀ (s : State) (b : SecId), (s.locks.get b).change = true → (s.locks.get b).level = false →
    ∃ u, exec (.lockLevelRise b) s = .next u ∧ u.isLocked b = true ∧ u.image = s.image) ∧
  (∀ (s : State) (b : SecId), (s.locks.get b).change = true → (s.locks.get b).level = true →
    ∃ u, exec (.lockLevelFall b) s = .next u ∧ u.isLocked b = false ∧ u.image = s.image) ∧
  (∀ (s : State) (b : SecId) (x : Filter), s.locks.get b = x → x.change = true → x.level = false → s.steady →
    ((s.section b).state = .disarmed ∨ (s.section b).state = .held ∨ (s.section b).state = .lockout) →
    ∃ D, (∀ off ∈ s.dirty, off ∈ D) ∧ exec (.lockLevelRise b) s = .next
      { s with locks := s.locks.set b { level := true, count := x.count, change := false }, dirty := D }) ∧
  (∀ (s : State) (b : SecId) (x : Filter) (e : Request), s.locks.get b = x → x.change = true → x.level = false →
    s.steady → (s.section b).state = .queued → s.requestOf b = some e →
    ∃ D S, (∀ off ∈ s.dirty, off ∈ D) ∧
      (∀ c, S.get c = if e.set.get c = true then { s.section c with state := .held } else s.section c) ∧
      exec (.lockLevelRise b) s = .next
        { s with
          locks := s.locks.set b { level := true, count := x.count, change := false }, sections := S,
          queue := s.queue.filter (· != e), dirty := D }) ∧
  (∀ (s : State) (b : SecId) (x : Filter), s.locks.get b = x → x.change = true → x.level = true → s.steady →
    s.nothingToEvaluate →
    ∃ D, (∀ off ∈ s.dirty, off ∈ D) ∧ exec (.lockLevelFall b) s = .next
      { s with locks := s.locks.set b { level := false, count := x.count, change := false }, dirty := D })

/-- The operate deadline of a device that no context owns expires: the fail flag, IDLE and a DEVICE_NO_RESPONSE frame with
the target code (R44). So does that of a device that a context owns, and the context stands, where the operation is neither
the context's own command nor counted as its own (R48, R147), and where it is a CLOSE of the context's own, of a device no
longer its route device nor the feeder it restores, that runs on after it has gone back to SELECT: there R147 has no row, and
that the context stands is the model's choice (log 39). -/
def Obligations.OperateDeadlineExpires : Prop :=
  (∀ (s : State) (d : DevId) (c : Cmd), s.hasRecord d = true → (s.device d).op = .inProgress c s.ms →
    s.ownedByNoContext d → s.steady → s.slotUnmarked →
    ∃ D, (∀ off ∈ s.dirty ++ s.frameMarks, off ∈ D) ∧ exec (.operateDeadlineExpiry d) s = .next
      { s with
        devices := s.devices.set d { s.device d with fail := true, op := .idle },
        recorder := s.recorded
          { cls := .deviceNoResponse, sec := s.frameSection d, dev := some d, src := s.incomerSource d,
            w5 := BitVec.ofNat 16 c.code },
        dirty := D }) ∧
  (∀ (s : State) (d : DevId) (c : Cmd) (k : CtxId), s.hasRecord d = true → (s.device d).op = .inProgress c s.ms →
    (s.device d).owner = .context k →
    (c = .cls ∧ (s.context k).routeDevice ≠ some d ∧ (s.context k).restoring ≠ some d) ∨
      (c = .opn ∧ (s.context k).sent.get d = false) →
    s.steady → s.slotUnmarked →
    ∃ D, (∀ off ∈ s.dirty ++ s.frameMarks, off ∈ D) ∧ exec (.operateDeadlineExpiry d) s = .next
      { s with
        devices := s.devices.set d { s.device d with fail := true, op := .idle },
        recorder := s.recorded
          { cls := .deviceNoResponse, sec := s.frameSection d, dev := some d, src := s.incomerSource d, ctx := some k,
            cause := (s.context k).cause, w5 := BitVec.ofNat 16 c.code },
        dirty := D })

/-! ## Phase timers -/

/-- The start limit expires: the awaited generator's route is excluded, and SELECT runs (R111, R114). A set FED by an
AVAILABLE source ends the transfer RECOVERED or SUPPLIED, its sections ARMED; else the first usable route is taken into
OPENING, or into DEAD_WAIT where nothing is to open (R115 to R117); else another generator is awaited; else the transfer
ends NO_ROUTE, its sections HELD, and the generator cools down (R85). That no queued CLOSE of the context's is cancelled is
the model's reading (log 37), and so is that the device of the last attempt is abandoned only as a new route is taken
(log 16). -/
def Obligations.StartLimitExpiryRunsSelect : Prop :=
  ∀ (s : State) (k : CtxId) (n : SrcId) (c : Context) (E routes : List Route), s.active k = true →
    (s.context k).phase = .awaitSource → (s.context k).timer = some (.startLimit, s.ms) →
    (s.context k).awaited = some n → (s.context k).fixed = false → s.steady →
    E = (if (s.context k).excluded.contains (.source n) then (s.context k).excluded
      else (s.context k).excluded ++ [.source n]) →
    c = { s.context k with excluded := E } →
    routes = (s.sectionEntry c.lead).routes.filter (fun r => !E.contains r) →
    (∀ f r, s.fedAvailable c.set = some f → r = (if c.oldSources.get f = true then Result.recovered else .supplied) →
      (∀ d, c.routeDevice = some d → s.countedClosed d = false) → s.noDeferred → s.noMarks → s.nothingToEvaluate →
      ∃ u, exec (.startLimitExpiry k) s = .next u ∧ s.ends u k r .armed ∧ u.image = s.image ∧ u.queue = s.queue) ∧
    (s.fedAvailable c.set = none →
      (∀ r d x, routes.find? (s.usable k false) = some r → s.routeDeviceFor c.set r = some d → s.opens c (c.leaves d) = x →
        (s.ownsAll k x → DevSet.isEmpty x = false →
          ∃ u, exec (.startLimitExpiry k) s = .next u ∧ u.context k = s.openingOn c (c.leaves d) x r d ∧
            u.injections = s.openingQueue k x s.injections ∧ u.image = s.image ∧ u.devices = s.devices ∧
            u.sections = s.sections) ∧
        (x = DevSet.none → s.dead c.set = true →
          ∃ u, exec (.startLimitExpiry k) s = .next u ∧
            u.context k =
              { s.openingOn c (c.leaves d) x r d with
                phase := .deadWait,
                timer := some (.deadBus, s.ms + BitVec.ofNat 32 (s.sectionEntry c.lead).deadBus) } ∧
            u.injections = s.injections ∧ u.image = s.image ∧ u.devices = s.devices ∧ u.sections = s.sections)) ∧
      (∀ m, routes.find? (s.usable k false) = none → routes.findSome? (s.awaitable k) = some m →
        ∃ u, exec (.startLimitExpiry k) s = .next u ∧
          u.context k =
            { c with
              awaited := some m,
              timer := some (.startLimit, s.ms + BitVec.ofNat 32 (s.sourceEntry m).startLimit), reroute := false } ∧
          u.image = s.image ∧ u.devices = s.devices ∧ u.injections = s.injections ∧ u.sections = s.sections ∧
          u.queue = s.queue) ∧
      (routes.find? (s.usable k false) = none → routes.findSome? (s.awaitable k) = none → s.noDeferred → s.noMarks →
        ∃ u, exec (.startLimitExpiry k) s = .next u ∧ s.ends u k .noRoute .held ∧ u.image = s.image ∧
          ((s.sourceEntry n).generator = true → (s.source n).demand = true → s.incomerClosed n = false →
            (∀ j, j ≠ k → ¬(s.active j = true ∧ (s.context j).awaited = some n)) →
            (u.source n).demand = false ∧
              (u.source n).cool = some (s.ms + BitVec.ofNat 32 (s.sourceEntry n).coolDown))))

/-- An OPEN of OPENING settles (R116). By completion: others wait on; after the last, none that decides having failed, the
set dead, DEAD_WAIT; not dead, the end DEVICE_FAILED; with the reroute mark SELECT runs, here finding no route (R143). By a
missed deadline, the last: DEVICE_FAILED where the device decides (an incomer, the old borrow tie, an abandoned route
device), else DEAD_WAIT with its failure kept. -/
def Obligations.OpeningSettles : Prop :=
  (∀ (s t : State) (a : Access) (d : DevId) (k : CtxId) (e : Ms) (c : Context), s.reports t a d .opened →
    (t.device d).owner = .context k → (t.device d).op = .inProgress .opn e → t.active k = true → t.context k = c →
    c.phase = .opening → c.opening.get d = true → c.sent.get d = true → t.tieInside d c.set = false → t.steady →
    (DevSet.isEmpty (c.opening.set d false) = false →
      ∃ u, exec .positionWord s = .next u ∧ (u.device d).observed = .opened ∧ (u.device d).op = .idle ∧
        u.context k = { c with opening := c.opening.set d false, sent := c.sent.set d false } ∧
        u.injections = t.injections ∧ u.queue = t.queue) ∧
    (DevSet.isEmpty (c.opening.set d false) = true → (∀ x, c.failed.get x = true → t.decides c x = false) →
      ∃ u, exec .positionWord s = .next u ∧
        (c.reroute = false → u.dead c.set = true →
          u.context k =
            { c with
              opening := c.opening.set d false, sent := c.sent.set d false, phase := .deadWait,
              timer := some (.deadBus, t.ms + BitVec.ofNat 32 (t.sectionEntry c.lead).deadBus) }) ∧
        (c.reroute = false → u.dead c.set = false → t.noDeferred → t.noMarks → t.ends u k .deviceFailed .held) ∧
        (c.reroute = true → c.fixed = false → (∀ r ∈ (t.sectionEntry c.lead).routes, r ∈ c.excluded) →
          u.fedAvailable c.set = none → t.noDeferred → t.noMarks → t.ends u k .noRoute .held))) ∧
  (∀ (s : State) (d : DevId) (k : CtxId) (c : Context) (i : Incident), s.hasRecord d = true →
    (s.device d).op = .inProgress .opn s.ms → (s.device d).owner = .context k → s.active k = true → s.context k = c →
    c.phase = .opening → c.opening.get d = true → c.sent.get d = true → c.reroute = false →
    DevSet.isEmpty (c.opening.set d false) = true → s.steady → s.noMarks →
    i = { cls := .deviceNoResponse, sec := s.frameSection d, dev := some d, src := s.incomerSource d, ctx := some k,
          cause := c.cause, w5 := BitVec.ofNat 16 Cmd.opn.code } →
    (s.decides c d = true → s.noDeferred →
      ∃ u, exec (.operateDeadlineExpiry d) s = .next u ∧ (u.device d).fail = true ∧
        (s.framed i).ends u k .deviceFailed .held) ∧
    ((∀ x, (c.failed.set d true).get x = true → s.decides c x = false) → s.dead c.set = true →
      ∃ u, exec (.operateDeadlineExpiry d) s = .next u ∧ (u.device d).fail = true ∧ u.recorder = s.recorded i ∧
        u.context k =
          { c with
            opening := c.opening.set d false, sent := c.sent.set d false, failed := c.failed.set d true,
            phase := .deadWait,
            timer := some (.deadBus, s.ms + BitVec.ofNat 32 (s.sectionEntry c.lead).deadBus) }))

/-- The dead-bus delay expires with the target still usable: CLOSING, and a CLOSE queued for the route device (R117, R118). The
load of the re-check takes in the shed-flagged feeders whose OPEN has failed (R116; the model's reading, log 31). -/
def Obligations.DeadBusExpiryClosesTheRoute : Prop :=
  ∀ (s : State) (k : CtxId) (r : Route) (d : DevId), s.active k = true → (s.context k).phase = .deadWait →
    (s.context k).timer = some (.deadBus, s.ms) → (s.context k).target = some r →
    s.usableFor k false (s.recheckLoad (s.context k)) r = true → (s.context k).routeDevice = some d → s.owns k d = true → s.settled →
    (∀ j, j ≠ k → ¬((s.context j).state = .active ∧ (s.context j).phase = .deadWait)) →
    ∃ D, (∀ off ∈ s.dirty, off ∈ D) ∧ exec (.deadBusExpiry k) s = .next
      { s with
        contexts := s.contexts.set k { s.context k with phase := .closing, timer := none, closeInMemory := false },
        injections := joinInjection
          { device := d, code := .cls, tag := (s.device d).tag + 1, owner := .context k } s.injections,
        dirty := D }

/-- The CLOSE of the route in CLOSING (R118, R119): reaching memory it starts the stagger; refused by the guard, the target
is excluded and SELECT runs, here finding no route (R74, R143); completed, RESTORING with the feeders shed or carried, by
priority and then by index (R120), here while the stagger runs; its deadline missed, under ABANDON, the end DEVICE_FAILED. -/
def Obligations.RouteCloseCourse : Prop :=
  (∀ (s t : State) (e : Injection) (es : List Injection) (k : CtxId) (c : Context), s.grantsWriteBack →
    s.writeBackGranted = t → t.injections = e :: es → e.owner = .context k → e.code = .cls → t.owns k e.device = true →
    t.active k = true → t.context k = c → c.phase = .closing → c.routeDevice = some e.device → t.steady →
    (t.judge (.injection e.owner) e.device (some .cls) = .pass false → (t.device e.device).pending = false →
      (t.device e.device).observed ≠ .closed →
      ∃ D, (∀ off ∈ t.dirty, off ∈ D) ∧ exec .injectionWrite s = .next
        { t with
          image := t.image.write (t.entry e.device).command.toNat (commandWord .cls 1 e.tag),
          injections := t.injections.filter fun x => !(x.device == e.device),
          devices := t.devices.set e.device
            { t.device e.device with
              tag := e.tag, pending := true, op := .inProgress .cls (t.ms + BitVec.ofNat 32 (t.entry e.device).limit) },
          contexts := t.contexts.set k
            { c with
              closeInMemory := true,
              timer := some (.stagger, t.ms + BitVec.ofNat 32 (t.sectionEntry c.lead).stagger) },
          dirty := D }) ∧
    (∀ r, t.judge (.injection e.owner) e.device (some .cls) = .refuse r → c.claim = .none → t.noRouteLeft k c.target →
      t.noDeferred → t.noMarks →
      ∃ u, exec .injectionWrite s = .next u ∧ u.image = t.image ∧
        (t.framed
          { cls := .writeRefused, detail := some .injectionRefused, sec := t.frameSection e.device, dev := some e.device,
            src := t.incomerSource e.device, ctx := some k, cause := c.cause, w5 := (t.entry e.device).command,
            w6 := commandWord .cls 1 e.tag, w7 := BitVec.ofNat 16 (2 + 16 * r.code) }).ends u k .noRoute .held)) ∧
  (∀ (s t : State) (a : Access) (d : DevId) (k : CtxId) (e x : Ms) (c : Context), s.reports t a d .closed →
    (t.device d).owner = .context k → (t.device d).op = .inProgress .cls e → t.active k = true → t.context k = c →
    c.phase = .closing → c.routeDevice = some d → c.abandoned.get d = false → c.timer = some (.stagger, x) →
    (∀ f, c.shed.get f = true ∨ c.carried.get f = true → (t.entry f).priority < 8) →
    (∃ f, c.shed.get f = true ∨ c.carried.get f = true) → t.steady →
    ∃ u L, exec .positionWord s = .next u ∧ (u.device d).observed = .closed ∧ (u.device d).op = .idle ∧
      u.context k =
        { c with
          phase := .restoring, restoreList := L, cursor := 0, restoring := none, sent := DevSet.none,
          withheld := DevSet.none } ∧
      (∀ f, f ∈ L ↔ c.shed.get f = true ∨ c.carried.get f = true) ∧
      (L.Pairwise fun f g =>
        (t.entry f).priority < (t.entry g).priority ∨ ((t.entry f).priority = (t.entry g).priority ∧ f < g)) ∧
      u.injections = t.injections ∧ u.queue = t.queue) ∧
  (∀ (s : State) (d : DevId) (k : CtxId) (c : Context), s.hasRecord d = true → (s.device d).op = .inProgress .cls s.ms →
    (s.device d).owner = .context k → s.active k = true → s.context k = c → c.phase = .closing →
    c.routeDevice = some d → c.closeInMemory = true → s.board.responses.nextRoute = false → s.steady → s.noMarks →
    s.noDeferred →
    ∃ u, exec (.operateDeadlineExpiry d) s = .next u ∧ (u.device d).fail = true ∧
      (s.framed
        { cls := .deviceNoResponse, sec := s.frameSection d, dev := some d, src := s.incomerSource d, ctx := some k,
          cause := c.cause, w5 := BitVec.ofNat 16 Cmd.cls.code }).ends u k .deviceFailed .held)

/-- The restore stagger expires: in CLOSING, or with a feeder outstanding, only the timer stops; in RESTORING the next
feeder, captured, not observed CLOSED, usable and fitting, is commanded (R121, R122). -/
def Obligations.StaggerExpiryTakesTheNextFeeder : Prop :=
  (∀ (s : State) (k : CtxId), s.active k = true → (s.context k).timer = some (.stagger, s.ms) →
    ((s.context k).phase ≠ .restoring ∨ (s.context k).restoring ≠ none) → s.steady →
    ∃ D, (∀ off ∈ s.dirty, off ∈ D) ∧ exec (.restoreStaggerExpiry k) s = .next
      { s with contexts := s.contexts.set k { s.context k with timer := none }, dirty := D }) ∧
  (∀ (s : State) (k : CtxId) (d : DevId) (ds : List DevId), s.active k = true →
    (s.context k).timer = some (.stagger, s.ms) → (s.context k).phase = .restoring → (s.context k).restoring = none →
    (s.context k).restoreList.drop (s.context k).cursor = d :: ds → s.owns k d = true →
    (s.device d).observed ≠ .closed → s.usableDevice d = true → s.feederFits k d = true → s.steady →
    ∃ D, (∀ off ∈ s.dirty, off ∈ D) ∧ exec (.restoreStaggerExpiry k) s = .next
      { s with
        contexts := s.contexts.set k
          { s.context k with timer := none, restoring := some d, sent := DevSet.none },
        injections := joinInjection
          { device := d, code := .cls, tag := (s.device d).tag + 1, owner := .context k } s.injections,
        dirty := D })

/-- The end of the restore list (R121 to R123): at the stagger's expiry, where each feeder left is passed over or does not
fit (then it is withheld), or at the completion of the last one. The transfer ends DONE, or DONE_WITHHELD with a feeder
withheld; each section of the set becomes ARMED, here with nothing to evaluate, records the tie of a TIE route as its borrow
tie (R9), and takes its own withheld feeders (R105). -/
def Obligations.RestoreListEnds : Prop :=
  (∀ (s : State) (k : CtxId) (c : Context) (ds : List DevId) (x : DevSet) (r : Result), s.active k = true →
    s.context k = c → c.timer = some (.stagger, s.ms) → c.phase = .restoring → c.restoring = none →
    c.restoreList.drop c.cursor = ds → (∀ d ∈ ds, s.passedOver k d = true ∨ s.feederFits k d = false) →
    (∀ d, x.get d = true ↔ c.withheld.get d = true ∨ (d ∈ ds ∧ s.passedOver k d = false)) →
    r = (if DevSet.isEmpty x = true then Result.done else .doneWithheld) → s.noDeferred → s.noMarks →
    s.nothingToEvaluate → s.steady →
    ∃ u, exec (.restoreStaggerExpiry k) s = .next u ∧ s.ends u k r .armed ∧ u.image = s.image ∧
      (u.context k).withheld = x ∧ s.handsOver u c x) ∧
  (∀ (s t : State) (a : Access) (d : DevId) (b : SecId) (k : CtxId) (e : Ms) (c : Context) (r : Result),
    s.reports t a d .closed → t.kindOf d = .feeder b → (t.device d).owner = .context k →
    (t.device d).op = .inProgress .cls e → t.active k = true → t.context k = c → c.phase = .restoring →
    c.restoring = some d → c.restoreList.length ≤ c.cursor + 1 → c.abandoned.get d = false →
    r = (if DevSet.isEmpty c.withheld = true then Result.done else .doneWithheld) → t.noDeferred → t.noMarks →
    t.nothingToEvaluate → t.steady →
    ∃ u, exec .positionWord s = .next u ∧ t.ends u k r .armed ∧ (u.context k).withheld = c.withheld ∧
      t.handsOver u c c.withheld)

/-- The overlap expires in OPENING_OLD: an OPEN stands queued for the route device, a DEVICE_NO_RESPONSE frame is raised for
the old device, and the context ends PARALLEL_LIMIT, its sections HELD (R103, R125, R139). The sync window expires under
ABANDON: a SYNC_TIMEOUT frame, the selector released, and the holder ends SYNC_TIMEOUT, its sections HELD (R132, R133,
R136). No slot is marked here, and no deferred word waits. -/
def Obligations.OverlapAndSyncWindowEndTheTransfer : Prop :=
  (∀ (s : State) (k : CtxId) (d o : DevId) (c : Context), s.active k = true → s.context k = c →
    c.phase = .openingOld → c.timer = some (.overlap, s.ms) → c.routeDevice = some d → s.owns k d = true →
    s.oldDevice c = some o → s.noDeferred → s.noMarks → s.steady →
    ∃ u, exec (.overlapExpiry k) s = .next u ∧
      (s.framed
        { cls := .deviceNoResponse, sec := s.frameSection o, dev := some o, src := s.incomerSource o, ctx := some k,
          cause := c.cause, w5 := BitVec.ofNat 16 Cmd.opn.code }).ends u k .parallelLimit .held ∧
      (∃ e ∈ u.injections, e.device = d ∧ e.code = .opn) ∧ u.image = s.image) ∧
  (∀ (s : State) (h : SyncHold) (c : Context), s.sync.hold = some h → h.window = s.ms → s.active h.context = true →
    s.context h.context = c → c.phase = .syncWait ∨ c.phase = .closingParallel →
    s.board.responses.openTransition = false → s.noDeferred → s.noMarks → s.steady →
    ∃ u, exec .syncWindowExpiry s = .next u ∧ u.sync.hold = none ∧ u.syen = false ∧
      (s.framed
        { cls := .syncTimeout, sec := some c.lead, dev := c.routeDevice, src := some h.target, ctx := some h.context,
          cause := c.cause }).ends u h.context .syncTimeout .held ∧ u.image = s.image)

/-! ## The Sync Selector (R128 to R136) -/

/-- A grant: the head of the queue, its claim found waiting by the tick (log 2), becomes the holder, with its pair, the filter low and both timers started (R130). -/
def Obligations.SyncGrantMakesTheHolder : Prop :=
  ∀ (s : State) (k : CtxId) (ks : List CtxId) (f g : SrcId), k ∈ s.sync.due → s.sync.hold = none →
    s.sync.claims = k :: ks → s.fedAvailable (s.context k).set = some f → (s.context k).target = some (.source g) →
    f ≠ g → s.steady →
    ∃ D, (∀ off ∈ s.dirty, off ∈ D) ∧ ∃ u, exec .syncGrant s = .next u ∧ u =
      { s with
        contexts := s.contexts.set k { s.context k with claim := .held },
        sync :=
          { hold := some
              { context := k, running := f, target := g, filter := { level := false, count := 0, change := false },
                settle := some (s.ms + BitVec.ofNat 32 s.board.settle),
                window := s.ms + BitVec.ofNat 32 s.board.window },
            claims := ks, due := [] },
        dirty := D } ∧
      u.syen = true ∧ u.sya = f.val ∧ u.syb = g.val

/-- A change of the filtered SYNC level, or the end of the settle, that gives no leave moves the selection alone; one that
gives leave to a holder in SYNC_WAIT whose check holds queues the CLOSE of its route device (R131, R135). -/
def Obligations.LeaveQueuesTheParallelClose : Prop :=
  ∀ (s : State) (h new : SyncHold) (row : Instr), s.sync.hold = some h → s.steady →
    ((row = .syncLevelChange ∧ h.filter.change = true ∧
        new = { h with filter := { level := !h.filter.level, count := h.filter.count, change := false } }) ∨
      (row = .settleExpiry ∧ h.settle = some s.ms ∧ new = { h with settle := none })) →
    (¬(new.settle = none ∧ new.filter.level = true ∧ ¬(h.settle = none ∧ h.filter.level = true)) →
      ∃ D, (∀ off ∈ s.dirty, off ∈ D) ∧
        exec row s = .next { s with sync := { s.sync with hold := some new }, dirty := D }) ∧
    (∀ d, new.settle = none → new.filter.level = true → ¬(h.settle = none ∧ h.filter.level = true) →
      s.active h.context = true → (s.context h.context).phase = .syncWait → s.closedCheck h.context = true →
      s.fedAvailable (s.context h.context).set = some h.running → (s.context h.context).routeDevice = some d →
      s.owns h.context d = true →
      ∃ D, (∀ off ∈ s.dirty, off ∈ D) ∧ exec row s = .next
        { s with
          sync := { s.sync with hold := some new },
          contexts := s.contexts.set h.context { s.context h.context with phase := .closingParallel },
          injections := joinInjection
            { device := d, code := .cls, tag := (s.device d).tag + 1, owner := .context h.context } s.injections,
          dirty := D })

/-! ## The Emergency Latch (R159 to R163) -/

/-- A change of the filtered EOP level that is no edge, or that finds the latch set, moves the level alone; the seeding
takes the sampled line without an edge (R159). -/
def Obligations.EopLevelWithoutAnEdge : Prop :=
  (∀ (s : State) (x : Filter), s.latch.filter = x → x.change = true → s.isEdge (!x.level) = false ∨ s.latch.isSet = true →
    s.steady →
    ∃ D, (∀ off ∈ s.dirty, off ∈ D) ∧ exec .eopFilteredChange s = .next
      { s with
        latch := { s.latch with filter := { level := !x.level, count := x.count, change := false } }, dirty := D }) ∧
  (∀ s : State, s.isEdge true = s.board.eopRise ∧ s.isEdge false = s.board.eopFall) ∧
  (∀ s : State, s.latch.seed = .due → s.steady →
    ∃ D, (∀ off ∈ s.dirty, off ∈ D) ∧ exec .eopFilterSeed s = .next
      { s with
        latch :=
          { isSet := s.latch.isSet, filter := { level := s.pins.eop, count := 0, change := false }, seed := .seeded },
        dirty := D })

/-- An edge found while the latch is clear sets it: no context is ACTIVE, no request waits, no section is ARMED, QUEUED,
TRANSFERRING or HELD, the selector is free, and every emergency-open device is owned by EMERGENCY (R160 to R163). Each
ACTIVE context ends EMERGENCY, and without one the EMERGENCY frame is the one frame raised; while no copy waits, an OPEN is
queued for each device taken that is counted closed. -/
def Obligations.EdgeSetsTheLatch : Prop :=
  ∀ s : State, s.latch.filter.change = true → s.isEdge (!s.latch.filter.level) = true → s.latch.isSet = false →
    ∃ u, exec .eopFilteredChange s = .next u ∧ u.latch.isSet = true ∧
      u.latch.filter.level = (!s.latch.filter.level) ∧ (∀ k, u.active k = false) ∧ u.queue = [] ∧
      u.sync.hold = none ∧ u.sync.claims = [] ∧
      (∀ b, (u.section b).state = .disarmed ∨ (u.section b).state = .lockout) ∧
      (∀ d, u.hasRecord d = true → (u.entry d).emergencyOpen = true → (u.device d).owner = .emergency) ∧
      u.image = s.image ∧
      (s.settled → s.slotUnmarked → s.noTransfer → u.recorder = s.recorded { cls := .emergency }) ∧
      (s.settled → s.noMarks → ∀ k, s.active k = true → u.endedWith k .emergency) ∧
      (s.settled → s.store.pendingCopy = none → ∀ d, s.hasRecord d = true → (s.entry d).emergencyOpen = true →
        (s.device d).owner ≠ .emergency → s.countedClosed d = true →
        ⟨d, .opn, (s.device d).tag + 1, .emergency⟩ ∈ u.injections)

/-! ## Time (R76, R176, R178) -/

/-- A tick advances the ms count by one, modulo 2 to the power 32, and samples the lines; while GUARDING, with no event of
the millisecond left over, it puts each sample through its filter and changes nothing else; while UNCONFIGURED it samples
none (R19, R76, R77, R176); the claims of a free selector are then open to a grant (R130; log 2). A line filter of length n:
a sample equal to the level resets the count; a differing one counts, and at the n-th in a row the level is to change and the
count is 0 again (R76). -/
def Obligations.TickAdvancesAndSamples : Prop :=
  (∀ (sh lk : BitVec 4) (eop sync : Bool) (s : State), ∃ u, exec (.millisecondTick sh lk eop sync) s = .next u ∧
    u.ms = s.ms + 1 ∧ u.pins = { sh := sh, lk := lk, eop := eop, sync := sync } ∧ u.image = s.image ∧
    u.pPort = s.pPort ∧ u.fPort = s.fPort) ∧
  (∀ (sh lk : BitVec 4) (eop sync : Bool) (s : State), s.leftEvents = s → s.guarding = false →
    exec (.millisecondTick sh lk eop sync) s = .next
      { s with ms := s.ms + 1, pins := { sh := sh, lk := lk, eop := eop, sync := sync } }) ∧
  (∀ (sh lk : BitVec 4) (eop sync : Bool) (s : State), s.leftEvents = s → s.guarding = true →
    ∃ R L x y, (∀ n : SrcId, R.get n =
        { s.source n with
          health := (s.source n).health.sample (s.sourceEntry n).filterLength (sh.getLsbD n.val) }) ∧
      (∀ b : SecId, L.get b = (s.locks.get b).sample 4 (lk.getLsbD b.val)) ∧
      (s.latch.seed = .seeded → x = { s.latch with filter := s.latch.filter.sample 3 eop }) ∧
      (s.latch.seed = .waiting → x = { s.latch with seed := .due }) ∧
      (∀ h, s.sync.hold = some h → y.hold = some { h with filter := h.filter.sample 2 sync } ∧ y.due = []) ∧
      (s.sync.hold = none → y.hold = none ∧ y.due = s.sync.claims) ∧ y.claims = s.sync.claims ∧
      exec (.millisecondTick sh lk eop sync) s = .next
        { s with
          ms := s.ms + 1, pins := { sh := sh, lk := lk, eop := eop, sync := sync }, sources := R, locks := L,
          latch := x, sync := y }) ∧
  (∀ (x : Filter) (n : Nat) (line : Bool), 1 ≤ n → n ≤ 8 →
    (line = x.level → x.sample n line = { level := x.level, count := 0, change := false }) ∧
    (line ≠ x.level → x.count.toNat + 1 < n →
      (x.sample n line).level = x.level ∧ (x.sample n line).count.toNat = x.count.toNat + 1 ∧
        (x.sample n line).change = false) ∧
    (line ≠ x.level → n ≤ x.count.toNat + 1 → x.sample n line = { level := x.level, count := 0, change := true }) ∧
    x.turn = { level := !x.level, count := x.count, change := false })

/-- A time field with value v and unit u gives (v + 1) × u, from 1 ms to 256 s; every duration of the working copy is taken
so, and a timer started with it expires at the ms count that many later, modulo 2 to the power 32 (R178, R176). -/
def Obligations.DurationsOfTimeFields : Prop :=
  (∀ w : Word, duration w =
    (field w 0 8 + 1) * (if field w 8 2 = 0 then 1 else if field w 8 2 = 1 then 10 else if field w 8 2 = 2 then 100 else 1000)) ∧
  (∀ w : Word, 1 ≤ duration w ∧ duration w ≤ 256000) ∧
  (∀ (m : Memory) (n : SrcId),
    ((boardOf m).sources.get n).rideThrough = duration (m.read (0x50 + 6 * n.val + 2)) ∧
    ((boardOf m).sources.get n).stability = duration (m.read (0x50 + 6 * n.val + 3)) ∧
    ((boardOf m).sources.get n).startLimit = duration (m.read (0x50 + 6 * n.val + 4)) ∧
    ((boardOf m).sources.get n).coolDown = duration (m.read (0x50 + 6 * n.val + 5))) ∧
  (∀ (m : Memory) (b : SecId),
    ((boardOf m).sections.get b).deadBus = duration (m.read (0x68 + 5 * b.val + 1)) ∧
    ((boardOf m).sections.get b).stagger = duration (m.read (0x68 + 5 * b.val + 2))) ∧
  (∀ (m : Memory) (d : DevId), ((boardOf m).devices.get d).kind ≠ .unused →
    ((boardOf m).devices.get d).limit = duration (m.read (5 * d.val + 3))) ∧
  (∀ m : Memory, (boardOf m).overlap = duration (m.read 0x91) ∧ (boardOf m).window = duration (m.read 0x92) ∧
    (boardOf m).settle = duration (m.read 0x93)) ∧
  (∀ (s t : State) (w : Word), t.due (some (s.after (duration w))) = true ↔ t.ms = s.ms + BitVec.ofNat 32 (duration w)) ∧
  (∀ (s : State) (w : Word), s.due (some (s.after (duration w))) = false)

end
end

