-- ==== Sys2Proof/Laws/State.lean ====
section
/-! SUPPORT. One lemma for each field and update of the state, and the reading of the fixed-size tables after a write. -/

namespace Sys2Proof

/-! ## Tables -/

@[simp] theorem Three.get_fill {α : Type} (a : α) (i : Fin 3) : (Three.fill a).get i = a := by
  match i with
  | 0 => rfl
  | 1 => rfl
  | 2 => rfl

theorem Three.get_set {α : Type} (t : Three α) (i j : Fin 3) (a : α) :
    (t.set i a).get j = if j = i then a else t.get j := by
  match i, j with
  | 0, 0 => rfl | 0, 1 => rfl | 0, 2 => rfl
  | 1, 0 => rfl | 1, 1 => rfl | 1, 2 => rfl
  | 2, 0 => rfl | 2, 1 => rfl | 2, 2 => rfl

@[simp] theorem Three.get_set_same {α : Type} (t : Three α) (i : Fin 3) (a : α) : (t.set i a).get i = a := by
  simp [Three.get_set]

theorem Three.get_set_ne {α : Type} (t : Three α) {i j : Fin 3} (h : j ≠ i) (a : α) : (t.set i a).get j = t.get j := by
  simp [Three.get_set, h]

@[simp] theorem Four.get_fill {α : Type} (a : α) (i : Fin 4) : (Four.fill a).get i = a := by
  match i with
  | 0 => rfl
  | 1 => rfl
  | 2 => rfl
  | 3 => rfl

@[simp] theorem Four.get_ofFn {α : Type} (g : Fin 4 → α) (i : Fin 4) : (Four.ofFn g).get i = g i := by
  match i with
  | 0 => rfl
  | 1 => rfl
  | 2 => rfl
  | 3 => rfl

theorem Four.get_set {α : Type} (t : Four α) (i j : Fin 4) (a : α) :
    (t.set i a).get j = if j = i then a else t.get j := by
  match i, j with
  | 0, 0 => rfl | 0, 1 => rfl | 0, 2 => rfl | 0, 3 => rfl
  | 1, 0 => rfl | 1, 1 => rfl | 1, 2 => rfl | 1, 3 => rfl
  | 2, 0 => rfl | 2, 1 => rfl | 2, 2 => rfl | 2, 3 => rfl
  | 3, 0 => rfl | 3, 1 => rfl | 3, 2 => rfl | 3, 3 => rfl

@[simp] theorem Four.get_set_same {α : Type} (t : Four α) (i : Fin 4) (a : α) : (t.set i a).get i = a := by
  simp [Four.get_set]

theorem Four.get_set_ne {α : Type} (t : Four α) {i j : Fin 4} (h : j ≠ i) (a : α) : (t.set i a).get j = t.get j := by
  simp [Four.get_set, h]

theorem cellOf_rowOf_colOf (i : Fin 16) : cellOf (rowOf i) (colOf i) = i := by
  apply Fin.ext
  simp only [cellOf, rowOf, colOf]
  omega

theorem eq_of_rowOf_colOf {i j : Fin 16} (h : rowOf i = rowOf j) (h' : colOf i = colOf j) : i = j := by
  rw [← cellOf_rowOf_colOf i, ← cellOf_rowOf_colOf j, h, h']

@[simp] theorem Sixteen.get_fill {α : Type} (a : α) (i : Fin 16) : (Sixteen.fill a).get i = a := by
  simp [Sixteen.fill, Sixteen.get]

@[simp] theorem Sixteen.get_ofFn {α : Type} (g : Fin 16 → α) (i : Fin 16) : (Sixteen.ofFn g).get i = g i := by
  simp [Sixteen.ofFn, Sixteen.get, cellOf_rowOf_colOf]

theorem Sixteen.get_set {α : Type} (t : Sixteen α) (i j : Fin 16) (a : α) :
    (t.set i a).get j = if j = i then a else t.get j := by
  unfold Sixteen.set Sixteen.get
  by_cases h : j = i
  · subst h
    simp
  · by_cases hr : rowOf j = rowOf i
    · have hc : colOf j ≠ colOf i := fun hc => h (eq_of_rowOf_colOf hr hc)
      simp [hr, h, Four.get_set_ne _ hc]
    · simp [h, Four.get_set_ne _ hr]

@[simp] theorem Sixteen.get_set_same {α : Type} (t : Sixteen α) (i : Fin 16) (a : α) : (t.set i a).get i = a := by
  simp [Sixteen.get_set]

theorem Sixteen.get_set_ne {α : Type} (t : Sixteen α) {i j : Fin 16} (h : j ≠ i) (a : α) :
    (t.set i a).get j = t.get j := by
  simp [Sixteen.get_set, h]

namespace Machine

/-! ## Updates that leave a field -/

@[simp] theorem State.markDirty_pPort (s : State) (off : Nat) : (s.markDirty off).pPort = s.pPort := rfl
@[simp] theorem State.markDirty_fPort (s : State) (off : Nat) : (s.markDirty off).fPort = s.fPort := rfl
@[simp] theorem State.markDirty_lastGranted (s : State) (off : Nat) : (s.markDirty off).lastGranted = s.lastGranted := rfl
@[simp] theorem State.markDirty_image (s : State) (off : Nat) : (s.markDirty off).image = s.image := rfl
@[simp] theorem State.markDirty_injections (s : State) (off : Nat) : (s.markDirty off).injections = s.injections := rfl
@[simp] theorem State.markDirty_devices (s : State) (off : Nat) : (s.markDirty off).devices = s.devices := rfl
@[simp] theorem State.markDirty_store (s : State) (off : Nat) : (s.markDirty off).store = s.store := rfl
@[simp] theorem State.markDirty_sources (s : State) (off : Nat) : (s.markDirty off).sources = s.sources := rfl
@[simp] theorem State.markDirty_locks (s : State) (off : Nat) : (s.markDirty off).locks = s.locks := rfl
@[simp] theorem State.markDirty_sections (s : State) (off : Nat) : (s.markDirty off).sections = s.sections := rfl
@[simp] theorem State.markDirty_queue (s : State) (off : Nat) : (s.markDirty off).queue = s.queue := rfl
@[simp] theorem State.markDirty_lastAssigned (s : State) (off : Nat) : (s.markDirty off).lastAssigned = s.lastAssigned := rfl
@[simp] theorem State.markDirty_contexts (s : State) (off : Nat) : (s.markDirty off).contexts = s.contexts := rfl
@[simp] theorem State.markDirty_freed (s : State) (off : Nat) : (s.markDirty off).freed = s.freed := rfl
@[simp] theorem State.markDirty_sync (s : State) (off : Nat) : (s.markDirty off).sync = s.sync := rfl
@[simp] theorem State.markDirty_latch (s : State) (off : Nat) : (s.markDirty off).latch = s.latch := rfl
@[simp] theorem State.markDirty_recorder (s : State) (off : Nat) : (s.markDirty off).recorder = s.recorder := rfl
@[simp] theorem State.markDirty_ms (s : State) (off : Nat) : (s.markDirty off).ms = s.ms := rfl
@[simp] theorem State.markDirty_pins (s : State) (off : Nat) : (s.markDirty off).pins = s.pins := rfl
@[simp] theorem State.markDirty_pending (s : State) (off : Nat) : (s.markDirty off).pending = s.pending := rfl

@[simp] theorem State.storeWord_pPort (s : State) (a w : Word) : (s.storeWord a w).pPort = s.pPort := rfl
@[simp] theorem State.storeWord_fPort (s : State) (a w : Word) : (s.storeWord a w).fPort = s.fPort := rfl
@[simp] theorem State.storeWord_lastGranted (s : State) (a w : Word) : (s.storeWord a w).lastGranted = s.lastGranted := rfl
@[simp] theorem State.storeWord_injections (s : State) (a w : Word) : (s.storeWord a w).injections = s.injections := rfl
@[simp] theorem State.storeWord_dirty (s : State) (a w : Word) : (s.storeWord a w).dirty = s.dirty := rfl
@[simp] theorem State.storeWord_devices (s : State) (a w : Word) : (s.storeWord a w).devices = s.devices := rfl
@[simp] theorem State.storeWord_store (s : State) (a w : Word) : (s.storeWord a w).store = s.store := rfl
@[simp] theorem State.storeWord_sources (s : State) (a w : Word) : (s.storeWord a w).sources = s.sources := rfl
@[simp] theorem State.storeWord_locks (s : State) (a w : Word) : (s.storeWord a w).locks = s.locks := rfl
@[simp] theorem State.storeWord_sections (s : State) (a w : Word) : (s.storeWord a w).sections = s.sections := rfl
@[simp] theorem State.storeWord_queue (s : State) (a w : Word) : (s.storeWord a w).queue = s.queue := rfl
@[simp] theorem State.storeWord_lastAssigned (s : State) (a w : Word) : (s.storeWord a w).lastAssigned = s.lastAssigned := rfl
@[simp] theorem State.storeWord_contexts (s : State) (a w : Word) : (s.storeWord a w).contexts = s.contexts := rfl
@[simp] theorem State.storeWord_freed (s : State) (a w : Word) : (s.storeWord a w).freed = s.freed := rfl
@[simp] theorem State.storeWord_sync (s : State) (a w : Word) : (s.storeWord a w).sync = s.sync := rfl
@[simp] theorem State.storeWord_latch (s : State) (a w : Word) : (s.storeWord a w).latch = s.latch := rfl
@[simp] theorem State.storeWord_recorder (s : State) (a w : Word) : (s.storeWord a w).recorder = s.recorder := rfl
@[simp] theorem State.storeWord_ms (s : State) (a w : Word) : (s.storeWord a w).ms = s.ms := rfl
@[simp] theorem State.storeWord_pins (s : State) (a w : Word) : (s.storeWord a w).pins = s.pins := rfl
@[simp] theorem State.storeWord_pending (s : State) (a w : Word) : (s.storeWord a w).pending = s.pending := rfl

@[simp] theorem State.setDevice_pPort (s : State) (d : DevId) (x : Device) : (s.setDevice d x).pPort = s.pPort := rfl
@[simp] theorem State.setDevice_fPort (s : State) (d : DevId) (x : Device) : (s.setDevice d x).fPort = s.fPort := rfl
@[simp] theorem State.setDevice_lastGranted (s : State) (d : DevId) (x : Device) : (s.setDevice d x).lastGranted = s.lastGranted := rfl
@[simp] theorem State.setDevice_image (s : State) (d : DevId) (x : Device) : (s.setDevice d x).image = s.image := rfl
@[simp] theorem State.setDevice_injections (s : State) (d : DevId) (x : Device) : (s.setDevice d x).injections = s.injections := rfl
@[simp] theorem State.setDevice_dirty (s : State) (d : DevId) (x : Device) : (s.setDevice d x).dirty = s.dirty := rfl
@[simp] theorem State.setDevice_store (s : State) (d : DevId) (x : Device) : (s.setDevice d x).store = s.store := rfl
@[simp] theorem State.setDevice_sources (s : State) (d : DevId) (x : Device) : (s.setDevice d x).sources = s.sources := rfl
@[simp] theorem State.setDevice_locks (s : State) (d : DevId) (x : Device) : (s.setDevice d x).locks = s.locks := rfl
@[simp] theorem State.setDevice_sections (s : State) (d : DevId) (x : Device) : (s.setDevice d x).sections = s.sections := rfl
@[simp] theorem State.setDevice_queue (s : State) (d : DevId) (x : Device) : (s.setDevice d x).queue = s.queue := rfl
@[simp] theorem State.setDevice_lastAssigned (s : State) (d : DevId) (x : Device) : (s.setDevice d x).lastAssigned = s.lastAssigned := rfl
@[simp] theorem State.setDevice_contexts (s : State) (d : DevId) (x : Device) : (s.setDevice d x).contexts = s.contexts := rfl
@[simp] theorem State.setDevice_freed (s : State) (d : DevId) (x : Device) : (s.setDevice d x).freed = s.freed := rfl
@[simp] theorem State.setDevice_sync (s : State) (d : DevId) (x : Device) : (s.setDevice d x).sync = s.sync := rfl
@[simp] theorem State.setDevice_latch (s : State) (d : DevId) (x : Device) : (s.setDevice d x).latch = s.latch := rfl
@[simp] theorem State.setDevice_recorder (s : State) (d : DevId) (x : Device) : (s.setDevice d x).recorder = s.recorder := rfl
@[simp] theorem State.setDevice_ms (s : State) (d : DevId) (x : Device) : (s.setDevice d x).ms = s.ms := rfl
@[simp] theorem State.setDevice_pins (s : State) (d : DevId) (x : Device) : (s.setDevice d x).pins = s.pins := rfl
@[simp] theorem State.setDevice_pending (s : State) (d : DevId) (x : Device) : (s.setDevice d x).pending = s.pending := rfl

@[simp] theorem State.setContext_pPort (s : State) (k : CtxId) (c : Context) : (s.setContext k c).pPort = s.pPort := rfl
@[simp] theorem State.setContext_fPort (s : State) (k : CtxId) (c : Context) : (s.setContext k c).fPort = s.fPort := rfl
@[simp] theorem State.setContext_lastGranted (s : State) (k : CtxId) (c : Context) : (s.setContext k c).lastGranted = s.lastGranted := rfl
@[simp] theorem State.setContext_image (s : State) (k : CtxId) (c : Context) : (s.setContext k c).image = s.image := rfl
@[simp] theorem State.setContext_injections (s : State) (k : CtxId) (c : Context) : (s.setContext k c).injections = s.injections := rfl
@[simp] theorem State.setContext_dirty (s : State) (k : CtxId) (c : Context) : (s.setContext k c).dirty = s.dirty := rfl
@[simp] theorem State.setContext_devices (s : State) (k : CtxId) (c : Context) : (s.setContext k c).devices = s.devices := rfl
@[simp] theorem State.setContext_store (s : State) (k : CtxId) (c : Context) : (s.setContext k c).store = s.store := rfl
@[simp] theorem State.setContext_sources (s : State) (k : CtxId) (c : Context) : (s.setContext k c).sources = s.sources := rfl
@[simp] theorem State.setContext_locks (s : State) (k : CtxId) (c : Context) : (s.setContext k c).locks = s.locks := rfl
@[simp] theorem State.setContext_sections (s : State) (k : CtxId) (c : Context) : (s.setContext k c).sections = s.sections := rfl
@[simp] theorem State.setContext_queue (s : State) (k : CtxId) (c : Context) : (s.setContext k c).queue = s.queue := rfl
@[simp] theorem State.setContext_lastAssigned (s : State) (k : CtxId) (c : Context) : (s.setContext k c).lastAssigned = s.lastAssigned := rfl
@[simp] theorem State.setContext_freed (s : State) (k : CtxId) (c : Context) : (s.setContext k c).freed = s.freed := rfl
@[simp] theorem State.setContext_sync (s : State) (k : CtxId) (c : Context) : (s.setContext k c).sync = s.sync := rfl
@[simp] theorem State.setContext_latch (s : State) (k : CtxId) (c : Context) : (s.setContext k c).latch = s.latch := rfl
@[simp] theorem State.setContext_recorder (s : State) (k : CtxId) (c : Context) : (s.setContext k c).recorder = s.recorder := rfl
@[simp] theorem State.setContext_ms (s : State) (k : CtxId) (c : Context) : (s.setContext k c).ms = s.ms := rfl
@[simp] theorem State.setContext_pins (s : State) (k : CtxId) (c : Context) : (s.setContext k c).pins = s.pins := rfl
@[simp] theorem State.setContext_pending (s : State) (k : CtxId) (c : Context) : (s.setContext k c).pending = s.pending := rfl

@[simp] theorem State.setSection_pPort (s : State) (b : SecId) (x : Section) : (s.setSection b x).pPort = s.pPort := rfl
@[simp] theorem State.setSection_fPort (s : State) (b : SecId) (x : Section) : (s.setSection b x).fPort = s.fPort := rfl
@[simp] theorem State.setSection_lastGranted (s : State) (b : SecId) (x : Section) : (s.setSection b x).lastGranted = s.lastGranted := rfl
@[simp] theorem State.setSection_image (s : State) (b : SecId) (x : Section) : (s.setSection b x).image = s.image := rfl
@[simp] theorem State.setSection_injections (s : State) (b : SecId) (x : Section) : (s.setSection b x).injections = s.injections := rfl
@[simp] theorem State.setSection_dirty (s : State) (b : SecId) (x : Section) : (s.setSection b x).dirty = s.dirty := rfl
@[simp] theorem State.setSection_devices (s : State) (b : SecId) (x : Section) : (s.setSection b x).devices = s.devices := rfl
@[simp] theorem State.setSection_store (s : State) (b : SecId) (x : Section) : (s.setSection b x).store = s.store := rfl
@[simp] theorem State.setSection_sources (s : State) (b : SecId) (x : Section) : (s.setSection b x).sources = s.sources := rfl
@[simp] theorem State.setSection_locks (s : State) (b : SecId) (x : Section) : (s.setSection b x).locks = s.locks := rfl
@[simp] theorem State.setSection_queue (s : State) (b : SecId) (x : Section) : (s.setSection b x).queue = s.queue := rfl
@[simp] theorem State.setSection_lastAssigned (s : State) (b : SecId) (x : Section) : (s.setSection b x).lastAssigned = s.lastAssigned := rfl
@[simp] theorem State.setSection_contexts (s : State) (b : SecId) (x : Section) : (s.setSection b x).contexts = s.contexts := rfl
@[simp] theorem State.setSection_freed (s : State) (b : SecId) (x : Section) : (s.setSection b x).freed = s.freed := rfl
@[simp] theorem State.setSection_sync (s : State) (b : SecId) (x : Section) : (s.setSection b x).sync = s.sync := rfl
@[simp] theorem State.setSection_latch (s : State) (b : SecId) (x : Section) : (s.setSection b x).latch = s.latch := rfl
@[simp] theorem State.setSection_recorder (s : State) (b : SecId) (x : Section) : (s.setSection b x).recorder = s.recorder := rfl
@[simp] theorem State.setSection_ms (s : State) (b : SecId) (x : Section) : (s.setSection b x).ms = s.ms := rfl
@[simp] theorem State.setSection_pins (s : State) (b : SecId) (x : Section) : (s.setSection b x).pins = s.pins := rfl
@[simp] theorem State.setSection_pending (s : State) (b : SecId) (x : Section) : (s.setSection b x).pending = s.pending := rfl

@[simp] theorem State.setSource_pPort (s : State) (n : SrcId) (x : Source) : (s.setSource n x).pPort = s.pPort := rfl
@[simp] theorem State.setSource_fPort (s : State) (n : SrcId) (x : Source) : (s.setSource n x).fPort = s.fPort := rfl
@[simp] theorem State.setSource_lastGranted (s : State) (n : SrcId) (x : Source) : (s.setSource n x).lastGranted = s.lastGranted := rfl
@[simp] theorem State.setSource_image (s : State) (n : SrcId) (x : Source) : (s.setSource n x).image = s.image := rfl
@[simp] theorem State.setSource_injections (s : State) (n : SrcId) (x : Source) : (s.setSource n x).injections = s.injections := rfl
@[simp] theorem State.setSource_dirty (s : State) (n : SrcId) (x : Source) : (s.setSource n x).dirty = s.dirty := rfl
@[simp] theorem State.setSource_devices (s : State) (n : SrcId) (x : Source) : (s.setSource n x).devices = s.devices := rfl
@[simp] theorem State.setSource_store (s : State) (n : SrcId) (x : Source) : (s.setSource n x).store = s.store := rfl
@[simp] theorem State.setSource_locks (s : State) (n : SrcId) (x : Source) : (s.setSource n x).locks = s.locks := rfl
@[simp] theorem State.setSource_sections (s : State) (n : SrcId) (x : Source) : (s.setSource n x).sections = s.sections := rfl
@[simp] theorem State.setSource_queue (s : State) (n : SrcId) (x : Source) : (s.setSource n x).queue = s.queue := rfl
@[simp] theorem State.setSource_lastAssigned (s : State) (n : SrcId) (x : Source) : (s.setSource n x).lastAssigned = s.lastAssigned := rfl
@[simp] theorem State.setSource_contexts (s : State) (n : SrcId) (x : Source) : (s.setSource n x).contexts = s.contexts := rfl
@[simp] theorem State.setSource_freed (s : State) (n : SrcId) (x : Source) : (s.setSource n x).freed = s.freed := rfl
@[simp] theorem State.setSource_sync (s : State) (n : SrcId) (x : Source) : (s.setSource n x).sync = s.sync := rfl
@[simp] theorem State.setSource_latch (s : State) (n : SrcId) (x : Source) : (s.setSource n x).latch = s.latch := rfl
@[simp] theorem State.setSource_recorder (s : State) (n : SrcId) (x : Source) : (s.setSource n x).recorder = s.recorder := rfl
@[simp] theorem State.setSource_ms (s : State) (n : SrcId) (x : Source) : (s.setSource n x).ms = s.ms := rfl
@[simp] theorem State.setSource_pins (s : State) (n : SrcId) (x : Source) : (s.setSource n x).pins = s.pins := rfl
@[simp] theorem State.setSource_pending (s : State) (n : SrcId) (x : Source) : (s.setSource n x).pending = s.pending := rfl

@[simp] theorem State.updDevice_pPort (s : State) (d : DevId) (f : Device → Device) : (s.updDevice d f).pPort = s.pPort := rfl
@[simp] theorem State.updDevice_fPort (s : State) (d : DevId) (f : Device → Device) : (s.updDevice d f).fPort = s.fPort := rfl
@[simp] theorem State.updDevice_lastGranted (s : State) (d : DevId) (f : Device → Device) : (s.updDevice d f).lastGranted = s.lastGranted := rfl
@[simp] theorem State.updDevice_image (s : State) (d : DevId) (f : Device → Device) : (s.updDevice d f).image = s.image := rfl
@[simp] theorem State.updDevice_injections (s : State) (d : DevId) (f : Device → Device) : (s.updDevice d f).injections = s.injections := rfl
@[simp] theorem State.updDevice_dirty (s : State) (d : DevId) (f : Device → Device) : (s.updDevice d f).dirty = s.dirty := rfl
@[simp] theorem State.updDevice_store (s : State) (d : DevId) (f : Device → Device) : (s.updDevice d f).store = s.store := rfl
@[simp] theorem State.updDevice_sources (s : State) (d : DevId) (f : Device → Device) : (s.updDevice d f).sources = s.sources := rfl
@[simp] theorem State.updDevice_locks (s : State) (d : DevId) (f : Device → Device) : (s.updDevice d f).locks = s.locks := rfl
@[simp] theorem State.updDevice_sections (s : State) (d : DevId) (f : Device → Device) : (s.updDevice d f).sections = s.sections := rfl
@[simp] theorem State.updDevice_queue (s : State) (d : DevId) (f : Device → Device) : (s.updDevice d f).queue = s.queue := rfl
@[simp] theorem State.updDevice_lastAssigned (s : State) (d : DevId) (f : Device → Device) : (s.updDevice d f).lastAssigned = s.lastAssigned := rfl
@[simp] theorem State.updDevice_contexts (s : State) (d : DevId) (f : Device → Device) : (s.updDevice d f).contexts = s.contexts := rfl
@[simp] theorem State.updDevice_freed (s : State) (d : DevId) (f : Device → Device) : (s.updDevice d f).freed = s.freed := rfl
@[simp] theorem State.updDevice_sync (s : State) (d : DevId) (f : Device → Device) : (s.updDevice d f).sync = s.sync := rfl
@[simp] theorem State.updDevice_latch (s : State) (d : DevId) (f : Device → Device) : (s.updDevice d f).latch = s.latch := rfl
@[simp] theorem State.updDevice_recorder (s : State) (d : DevId) (f : Device → Device) : (s.updDevice d f).recorder = s.recorder := rfl
@[simp] theorem State.updDevice_ms (s : State) (d : DevId) (f : Device → Device) : (s.updDevice d f).ms = s.ms := rfl
@[simp] theorem State.updDevice_pins (s : State) (d : DevId) (f : Device → Device) : (s.updDevice d f).pins = s.pins := rfl
@[simp] theorem State.updDevice_pending (s : State) (d : DevId) (f : Device → Device) : (s.updDevice d f).pending = s.pending := rfl

@[simp] theorem State.updContext_pPort (s : State) (k : CtxId) (f : Context → Context) : (s.updContext k f).pPort = s.pPort := rfl
@[simp] theorem State.updContext_fPort (s : State) (k : CtxId) (f : Context → Context) : (s.updContext k f).fPort = s.fPort := rfl
@[simp] theorem State.updContext_lastGranted (s : State) (k : CtxId) (f : Context → Context) : (s.updContext k f).lastGranted = s.lastGranted := rfl
@[simp] theorem State.updContext_image (s : State) (k : CtxId) (f : Context → Context) : (s.updContext k f).image = s.image := rfl
@[simp] theorem State.updContext_injections (s : State) (k : CtxId) (f : Context → Context) : (s.updContext k f).injections = s.injections := rfl
@[simp] theorem State.updContext_dirty (s : State) (k : CtxId) (f : Context → Context) : (s.updContext k f).dirty = s.dirty := rfl
@[simp] theorem State.updContext_devices (s : State) (k : CtxId) (f : Context → Context) : (s.updContext k f).devices = s.devices := rfl
@[simp] theorem State.updContext_store (s : State) (k : CtxId) (f : Context → Context) : (s.updContext k f).store = s.store := rfl
@[simp] theorem State.updContext_sources (s : State) (k : CtxId) (f : Context → Context) : (s.updContext k f).sources = s.sources := rfl
@[simp] theorem State.updContext_locks (s : State) (k : CtxId) (f : Context → Context) : (s.updContext k f).locks = s.locks := rfl
@[simp] theorem State.updContext_sections (s : State) (k : CtxId) (f : Context → Context) : (s.updContext k f).sections = s.sections := rfl
@[simp] theorem State.updContext_queue (s : State) (k : CtxId) (f : Context → Context) : (s.updContext k f).queue = s.queue := rfl
@[simp] theorem State.updContext_lastAssigned (s : State) (k : CtxId) (f : Context → Context) : (s.updContext k f).lastAssigned = s.lastAssigned := rfl
@[simp] theorem State.updContext_freed (s : State) (k : CtxId) (f : Context → Context) : (s.updContext k f).freed = s.freed := rfl
@[simp] theorem State.updContext_sync (s : State) (k : CtxId) (f : Context → Context) : (s.updContext k f).sync = s.sync := rfl
@[simp] theorem State.updContext_latch (s : State) (k : CtxId) (f : Context → Context) : (s.updContext k f).latch = s.latch := rfl
@[simp] theorem State.updContext_recorder (s : State) (k : CtxId) (f : Context → Context) : (s.updContext k f).recorder = s.recorder := rfl
@[simp] theorem State.updContext_ms (s : State) (k : CtxId) (f : Context → Context) : (s.updContext k f).ms = s.ms := rfl
@[simp] theorem State.updContext_pins (s : State) (k : CtxId) (f : Context → Context) : (s.updContext k f).pins = s.pins := rfl
@[simp] theorem State.updContext_pending (s : State) (k : CtxId) (f : Context → Context) : (s.updContext k f).pending = s.pending := rfl

@[simp] theorem State.updSource_pPort (s : State) (n : SrcId) (f : Source → Source) : (s.updSource n f).pPort = s.pPort := rfl
@[simp] theorem State.updSource_fPort (s : State) (n : SrcId) (f : Source → Source) : (s.updSource n f).fPort = s.fPort := rfl
@[simp] theorem State.updSource_lastGranted (s : State) (n : SrcId) (f : Source → Source) : (s.updSource n f).lastGranted = s.lastGranted := rfl
@[simp] theorem State.updSource_image (s : State) (n : SrcId) (f : Source → Source) : (s.updSource n f).image = s.image := rfl
@[simp] theorem State.updSource_injections (s : State) (n : SrcId) (f : Source → Source) : (s.updSource n f).injections = s.injections := rfl
@[simp] theorem State.updSource_dirty (s : State) (n : SrcId) (f : Source → Source) : (s.updSource n f).dirty = s.dirty := rfl
@[simp] theorem State.updSource_devices (s : State) (n : SrcId) (f : Source → Source) : (s.updSource n f).devices = s.devices := rfl
@[simp] theorem State.updSource_store (s : State) (n : SrcId) (f : Source → Source) : (s.updSource n f).store = s.store := rfl
@[simp] theorem State.updSource_locks (s : State) (n : SrcId) (f : Source → Source) : (s.updSource n f).locks = s.locks := rfl
@[simp] theorem State.updSource_sections (s : State) (n : SrcId) (f : Source → Source) : (s.updSource n f).sections = s.sections := rfl
@[simp] theorem State.updSource_queue (s : State) (n : SrcId) (f : Source → Source) : (s.updSource n f).queue = s.queue := rfl
@[simp] theorem State.updSource_lastAssigned (s : State) (n : SrcId) (f : Source → Source) : (s.updSource n f).lastAssigned = s.lastAssigned := rfl
@[simp] theorem State.updSource_contexts (s : State) (n : SrcId) (f : Source → Source) : (s.updSource n f).contexts = s.contexts := rfl
@[simp] theorem State.updSource_freed (s : State) (n : SrcId) (f : Source → Source) : (s.updSource n f).freed = s.freed := rfl
@[simp] theorem State.updSource_sync (s : State) (n : SrcId) (f : Source → Source) : (s.updSource n f).sync = s.sync := rfl
@[simp] theorem State.updSource_latch (s : State) (n : SrcId) (f : Source → Source) : (s.updSource n f).latch = s.latch := rfl
@[simp] theorem State.updSource_recorder (s : State) (n : SrcId) (f : Source → Source) : (s.updSource n f).recorder = s.recorder := rfl
@[simp] theorem State.updSource_ms (s : State) (n : SrcId) (f : Source → Source) : (s.updSource n f).ms = s.ms := rfl
@[simp] theorem State.updSource_pins (s : State) (n : SrcId) (f : Source → Source) : (s.updSource n f).pins = s.pins := rfl
@[simp] theorem State.updSource_pending (s : State) (n : SrcId) (f : Source → Source) : (s.updSource n f).pending = s.pending := rfl

@[simp] theorem State.clearMark_pPort (s : State) (k : CtxId) : (s.clearMark k).pPort = s.pPort := rfl
@[simp] theorem State.clearMark_fPort (s : State) (k : CtxId) : (s.clearMark k).fPort = s.fPort := rfl
@[simp] theorem State.clearMark_lastGranted (s : State) (k : CtxId) : (s.clearMark k).lastGranted = s.lastGranted := rfl
@[simp] theorem State.clearMark_image (s : State) (k : CtxId) : (s.clearMark k).image = s.image := rfl
@[simp] theorem State.clearMark_injections (s : State) (k : CtxId) : (s.clearMark k).injections = s.injections := rfl
@[simp] theorem State.clearMark_dirty (s : State) (k : CtxId) : (s.clearMark k).dirty = s.dirty := rfl
@[simp] theorem State.clearMark_devices (s : State) (k : CtxId) : (s.clearMark k).devices = s.devices := rfl
@[simp] theorem State.clearMark_store (s : State) (k : CtxId) : (s.clearMark k).store = s.store := rfl
@[simp] theorem State.clearMark_sources (s : State) (k : CtxId) : (s.clearMark k).sources = s.sources := rfl
@[simp] theorem State.clearMark_locks (s : State) (k : CtxId) : (s.clearMark k).locks = s.locks := rfl
@[simp] theorem State.clearMark_sections (s : State) (k : CtxId) : (s.clearMark k).sections = s.sections := rfl
@[simp] theorem State.clearMark_queue (s : State) (k : CtxId) : (s.clearMark k).queue = s.queue := rfl
@[simp] theorem State.clearMark_lastAssigned (s : State) (k : CtxId) : (s.clearMark k).lastAssigned = s.lastAssigned := rfl
@[simp] theorem State.clearMark_contexts (s : State) (k : CtxId) : (s.clearMark k).contexts = s.contexts := rfl
@[simp] theorem State.clearMark_freed (s : State) (k : CtxId) : (s.clearMark k).freed = s.freed := rfl
@[simp] theorem State.clearMark_sync (s : State) (k : CtxId) : (s.clearMark k).sync = s.sync := rfl
@[simp] theorem State.clearMark_latch (s : State) (k : CtxId) : (s.clearMark k).latch = s.latch := rfl
@[simp] theorem State.clearMark_ms (s : State) (k : CtxId) : (s.clearMark k).ms = s.ms := rfl
@[simp] theorem State.clearMark_pins (s : State) (k : CtxId) : (s.clearMark k).pins = s.pins := rfl
@[simp] theorem State.clearMark_pending (s : State) (k : CtxId) : (s.clearMark k).pending = s.pending := rfl

@[simp] theorem State.turnLock_pPort (s : State) (b : SecId) : (s.turnLock b).pPort = s.pPort := rfl
@[simp] theorem State.turnLock_fPort (s : State) (b : SecId) : (s.turnLock b).fPort = s.fPort := rfl
@[simp] theorem State.turnLock_lastGranted (s : State) (b : SecId) : (s.turnLock b).lastGranted = s.lastGranted := rfl
@[simp] theorem State.turnLock_image (s : State) (b : SecId) : (s.turnLock b).image = s.image := rfl
@[simp] theorem State.turnLock_injections (s : State) (b : SecId) : (s.turnLock b).injections = s.injections := rfl
@[simp] theorem State.turnLock_dirty (s : State) (b : SecId) : (s.turnLock b).dirty = s.dirty := rfl
@[simp] theorem State.turnLock_devices (s : State) (b : SecId) : (s.turnLock b).devices = s.devices := rfl
@[simp] theorem State.turnLock_store (s : State) (b : SecId) : (s.turnLock b).store = s.store := rfl
@[simp] theorem State.turnLock_sources (s : State) (b : SecId) : (s.turnLock b).sources = s.sources := rfl
@[simp] theorem State.turnLock_sections (s : State) (b : SecId) : (s.turnLock b).sections = s.sections := rfl
@[simp] theorem State.turnLock_queue (s : State) (b : SecId) : (s.turnLock b).queue = s.queue := rfl
@[simp] theorem State.turnLock_lastAssigned (s : State) (b : SecId) : (s.turnLock b).lastAssigned = s.lastAssigned := rfl
@[simp] theorem State.turnLock_contexts (s : State) (b : SecId) : (s.turnLock b).contexts = s.contexts := rfl
@[simp] theorem State.turnLock_freed (s : State) (b : SecId) : (s.turnLock b).freed = s.freed := rfl
@[simp] theorem State.turnLock_sync (s : State) (b : SecId) : (s.turnLock b).sync = s.sync := rfl
@[simp] theorem State.turnLock_latch (s : State) (b : SecId) : (s.turnLock b).latch = s.latch := rfl
@[simp] theorem State.turnLock_recorder (s : State) (b : SecId) : (s.turnLock b).recorder = s.recorder := rfl
@[simp] theorem State.turnLock_ms (s : State) (b : SecId) : (s.turnLock b).ms = s.ms := rfl
@[simp] theorem State.turnLock_pins (s : State) (b : SecId) : (s.turnLock b).pins = s.pins := rfl
@[simp] theorem State.turnLock_pending (s : State) (b : SecId) : (s.turnLock b).pending = s.pending := rfl

/-! ## Updates that change a field -/

@[simp] theorem State.markDirty_dirty (s : State) (off : Nat) : (s.markDirty off).dirty = insertOffset off s.dirty := rfl

@[simp] theorem State.storeWord_image (s : State) (a w : Word) : (s.storeWord a w).image = s.image.write a.toNat w := rfl

@[simp] theorem State.setDevice_devices (s : State) (d : DevId) (x : Device) :
    (s.setDevice d x).devices = s.devices.set d x := rfl

@[simp] theorem State.setContext_contexts (s : State) (k : CtxId) (c : Context) :
    (s.setContext k c).contexts = s.contexts.set k c := rfl

@[simp] theorem State.setSection_sections (s : State) (b : SecId) (x : Section) :
    (s.setSection b x).sections = s.sections.set b x := rfl

@[simp] theorem State.setSource_sources (s : State) (n : SrcId) (x : Source) :
    (s.setSource n x).sources = s.sources.set n x := rfl

@[simp] theorem State.updDevice_devices (s : State) (d : DevId) (f : Device → Device) :
    (s.updDevice d f).devices = s.devices.set d (f (s.device d)) := rfl

@[simp] theorem State.updContext_contexts (s : State) (k : CtxId) (f : Context → Context) :
    (s.updContext k f).contexts = s.contexts.set k (f (s.context k)) := rfl

@[simp] theorem State.updSource_sources (s : State) (n : SrcId) (f : Source → Source) :
    (s.updSource n f).sources = s.sources.set n (f (s.source n)) := rfl

end Machine

end Sys2Proof
end

