-- ==== Sys2Proof/Laws/Memory.lean ====
section
/-! SUPPORT. Word memory: every operation keeps the canonical form, and a read after a write. -/

namespace Sys2Proof.Machine

theorem Memory.wf_cons (b : Nat) (x : Word) (m : Memory) :
    Memory.wf ((b, x) :: m) = true ↔ x ≠ 0 ∧ Memory.above b m = true ∧ Memory.wf m = true := by
  simp only [Memory.wf, Bool.and_eq_true, bne_iff_ne, ne_eq, and_assoc]

theorem Memory.above_cons (lo b : Nat) (x : Word) (m : Memory) : Memory.above lo ((b, x) :: m) = true ↔ lo < b := by
  simp only [Memory.above, decide_eq_true_eq]

theorem Memory.above_write (lo : Nat) (m : Memory) (a : Nat) (v : Word) (h : Memory.above lo m = true) (hw : m.wf = true)
    (ha : lo < a) : Memory.above lo (m.write a v) = true := by
  match m with
  | [] =>
    unfold Memory.write
    split
    · rfl
    · simpa [Memory.above] using ha
  | (b, x) :: rest =>
    have hb : lo < b := by simpa [Memory.above] using h
    unfold Memory.write
    split
    · split
      · exact h
      · simpa [Memory.above] using ha
    · split
      · split
        · match rest with
          | [] => rfl
          | (c, y) :: more =>
            have := (Memory.above_cons b c y more).1 ((Memory.wf_cons b x _).1 hw).2.1
            exact (Memory.above_cons lo c y more).2 (by omega)
        · simpa [Memory.above] using ha
      · simpa [Memory.above] using hb

/-- A write keeps the canonical form. -/
theorem Memory.wf_write (m : Memory) (a : Nat) (v : Word) (h : m.wf = true) : (m.write a v).wf = true := by
  induction m with
  | nil =>
    unfold Memory.write
    split
    · rfl
    · next hv => exact (Memory.wf_cons a v []).2 ⟨hv, rfl, rfl⟩
  | cons p rest ih =>
    obtain ⟨b, x⟩ := p
    have hx := (Memory.wf_cons b x rest).1 h
    unfold Memory.write
    split
    · next hab =>
      split
      · exact h
      · next hv => exact (Memory.wf_cons _ _ _).2 ⟨hv, (Memory.above_cons _ _ _ _).2 hab, h⟩
    · split
      · next hab =>
        subst hab
        split
        · exact hx.2.2
        · next hv => exact (Memory.wf_cons _ _ _).2 ⟨hv, hx.2⟩
      · next hlt hne =>
        have hba : b < a := by omega
        exact (Memory.wf_cons _ _ _).2 ⟨hx.1, Memory.above_write b rest a v hx.2.1 hx.2.2 hba, ih hx.2.2⟩

/-- A memory whose keys are all above a key reads 0000h there. -/
theorem Memory.read_above (m : Memory) (a : Nat) (h : Memory.above a m = true) (hw : Memory.wf m = true) :
    Memory.read m a = 0 := by
  induction m with
  | nil => rfl
  | cons p rest ih =>
    obtain ⟨b, x⟩ := p
    have hab := (Memory.above_cons a b x rest).1 h
    have hr := (Memory.wf_cons b x rest).1 hw
    have : Memory.above a rest = true := by
      match rest with
      | [] => rfl
      | (c, y) :: more =>
        have := (Memory.above_cons b c y more).1 hr.2.1
        exact (Memory.above_cons a c y more).2 (by omega)
    rw [Memory.read, if_neg (Nat.ne_of_lt hab), ih this hr.2.2]

/-- A read after a write, at any key. -/
theorem Memory.read_write (m : Memory) (a k : Nat) (v : Word) (h : m.wf = true) :
    (m.write a v).read k = if k = a then v else m.read k := by
  induction m with
  | nil =>
    unfold Memory.write
    by_cases hv : v = 0
    · rw [if_pos hv, hv]
      simp [Memory.read]
    · rw [if_neg hv]
      rfl
  | cons p rest ih =>
    obtain ⟨b, x⟩ := p
    have hx := (Memory.wf_cons b x rest).1 h
    unfold Memory.write
    split
    · next hab =>
      by_cases hv : v = 0
      · rw [if_pos hv]
        by_cases hk : k = a
        · subst hk
          rw [if_pos rfl, hv, Memory.read_above _ _ ((Memory.above_cons _ _ _ _).2 hab) h]
        · rw [if_neg hk]
      · rw [if_neg hv]
        rfl
    · split
      · next hab =>
        subst hab
        by_cases hv : v = 0
        · rw [if_pos hv]
          by_cases hk : k = a
          · subst hk
            rw [if_pos rfl, hv, Memory.read_above _ _ hx.2.1 hx.2.2]
          · rw [if_neg hk, Memory.read, if_neg hk]
        · rw [if_neg hv]
          by_cases hk : k = a
          · simp only [Memory.read, if_pos hk]
          · simp only [Memory.read, if_neg hk]
      · next hlt hne =>
        simp only [Memory.read, ih hx.2.2]
        by_cases hk : k = b
        · subst hk
          rw [if_pos rfl, if_pos rfl, if_neg (Ne.symm hne)]
        · rw [if_neg hk, if_neg hk]

/-- Writing several words keeps the canonical form. -/
theorem Memory.wf_writeAll (ws : List Word) (m : Memory) (a : Nat) (h : m.wf = true) : (m.writeAll a ws).wf = true := by
  induction ws generalizing m a with
  | nil => exact h
  | cons w ws ih => exact ih _ _ (Memory.wf_write m a w h)

/-- A read after writing several words: the word of its place, or what was there. -/
theorem Memory.read_writeAll (ws : List Word) (m : Memory) (a k : Nat) (h : m.wf = true) :
    (m.writeAll a ws).read k =
      match (if a ≤ k then ws[k - a]? else none) with
      | some w => w
      | none => m.read k := by
  induction ws generalizing m a with
  | nil => simp [Memory.writeAll]
  | cons w ws ih =>
    rw [Memory.writeAll, ih _ _ (Memory.wf_write m a w h), Memory.read_write _ _ _ _ h]
    by_cases h1 : a + 1 ≤ k
    · have e : k - a = (k - (a + 1)) + 1 := by omega
      have h2 : a ≤ k := by omega
      have h3 : k ≠ a := by omega
      simp [h1, h2, h3, e]
    · by_cases h2 : a ≤ k
      · have h3 : k = a := by omega
        subst h3
        simp [h1]
      · have h3 : k ≠ a := by omega
        simp [h1, h2, h3]

theorem State.readImage_storeWord (s : State) (a b w : Word) (h : s.image.wf = true) :
    (s.storeWord a w).readImage b = if b = a then w else s.readImage b := by
  unfold State.readImage
  rw [State.storeWord_image, Memory.read_write _ _ _ _ h]
  by_cases hb : b = a
  · simp [hb]
  · have : b.toNat ≠ a.toNat := fun e => hb (BitVec.eq_of_toNat_eq e)
    simp [hb, this]

/-- The memory of the state after reset is canonical. -/
theorem State.reset_canonical : State.reset.canonical := by
  refine ⟨rfl, rfl, rfl, ?_⟩
  intro m h
  cases h

/-! ## Guard-page addresses (R22) -/

theorem toNat_guardAddress (page : BitVec 4) (off : Nat) (h : off < 0x1000) :
    (guardAddress page off).toNat = page.toNat * 0x1000 + off := by
  have := page.isLt
  simp only [guardAddress, BitVec.toNat_ofNat]
  apply Nat.mod_eq_of_lt
  omega

/-- Two offsets of the page have different addresses. -/
theorem guardAddress_inj (page : BitVec 4) {x y : Nat} (hx : x < 0x1000) (hy : y < 0x1000)
    (h : guardAddress page x = guardAddress page y) : x = y := by
  have := congrArg BitVec.toNat h
  rw [toNat_guardAddress _ _ hx, toNat_guardAddress _ _ hy] at this
  omega

theorem guardOffset_lt (a : Word) : guardOffset a < 0x1000 := by
  have := (a.extractLsb' 0 12).isLt
  simpa [guardOffset, field] using this

/-- An address in the page is the address of its offset. -/
theorem guardAddress_guardOffset (page : BitVec 4) (a : Word) (h : inGuardPage page a = true) :
    guardAddress page (guardOffset a) = a := by
  have hp : (a.extractLsb' 12 4) = page := by simpa [inGuardPage] using h
  apply BitVec.eq_of_toNat_eq
  rw [toNat_guardAddress _ _ (guardOffset_lt a), ← hp]
  have := a.isLt
  simp only [guardOffset, field, BitVec.extractLsb'_toNat, Nat.shiftRight_eq_div_pow]
  omega

theorem inGuardPage_guardAddress (page : BitVec 4) (off : Nat) (h : off < 0x1000) :
    inGuardPage page (guardAddress page off) = true := by
  have hp := page.isLt
  have : (guardAddress page off).extractLsb' 12 4 = page := by
    apply BitVec.eq_of_toNat_eq
    rw [BitVec.extractLsb'_toNat, toNat_guardAddress _ _ h, Nat.shiftRight_eq_div_pow]
    omega
  simp [inGuardPage, this]

end Sys2Proof.Machine
end

