-- ==== Sys2Proof/Laws/Inside.lean ====
section
/-! SUPPORT. What an operation inside an event can do (`Inside`): it leaves the memory, the ports, the arbiter, the staged
copy, the lines and the clock alone, takes no word out of the dirty set, and keeps the state sound. One lemma for each
operation of Ops.lean and Demand.lean. -/

namespace Sys2Proof.Machine

/-- What every operation inside an event leaves alone, and the structure it keeps, whatever it does to owners, positions and
the working copy. -/
structure Calm (s t : State) : Prop where
  image : t.image = s.image
  page : t.store.page = s.store.page
  staged : t.store.staged = s.store.staged
  pPort : t.pPort = s.pPort
  fPort : t.fPort = s.fPort
  lastGranted : t.lastGranted = s.lastGranted
  locks : t.locks = s.locks
  ms : t.ms = s.ms
  pins : t.pins = s.pins
  pending : t.pending = s.pending
  dirty : ∀ off ∈ s.dirty, off ∈ t.dirty
  dirtyOrdered : s.dirtyOrdered → t.dirtyOrdered
  oneInjectionEach : s.oneInjectionEach → t.oneInjectionEach
  canonical : s.canonical → t.canonical
  addressesOutside : s.addressesOutside → t.addressesOutside

/-- What every operation inside an event leaves alone, and what it keeps. -/
structure Inside (s t : State) : Prop extends Calm s t where
  demandsMet : s.demandsMet → t.demandsMet
  latchHolds : s.latchHolds → t.latchHolds

theorem Calm.refl (s : State) : Calm s s :=
  ⟨rfl, rfl, rfl, rfl, rfl, rfl, rfl, rfl, rfl, rfl, fun _ h => h, id, id, id, id⟩

theorem Calm.trans {s t u : State} (h : Calm s t) (g : Calm t u) : Calm s u :=
  ⟨g.image.trans h.image, g.page.trans h.page, g.staged.trans h.staged, g.pPort.trans h.pPort, g.fPort.trans h.fPort,
    g.lastGranted.trans h.lastGranted, g.locks.trans h.locks, g.ms.trans h.ms, g.pins.trans h.pins,
    g.pending.trans h.pending, fun off m => g.dirty off (h.dirty off m), fun x => g.dirtyOrdered (h.dirtyOrdered x),
    fun x => g.oneInjectionEach (h.oneInjectionEach x), fun x => g.canonical (h.canonical x),
    fun x => g.addressesOutside (h.addressesOutside x)⟩

theorem Inside.refl (s : State) : Inside s s := ⟨.refl s, id, id⟩

theorem Inside.trans {s t u : State} (h : Inside s t) (g : Inside t u) : Inside s u :=
  ⟨h.toCalm.trans g.toCalm, fun x => g.demandsMet (h.demandsMet x), fun x => g.latchHolds (h.latchHolds x)⟩

theorem Inside.sound {s t : State} (h : Inside s t) (x : s.Sound) : t.Sound :=
  ⟨h.dirtyOrdered x.dirtyOrdered, h.oneInjectionEach x.oneInjectionEach, h.canonical x.canonical,
    h.addressesOutside x.addressesOutside, h.demandsMet x.demandsMet, h.latchHolds x.latchHolds⟩

theorem Calm.foldl {α : Type} {f : State → α → State} (h : ∀ s x, Calm s (f s x)) (xs : List α) (s : State) :
    Calm s (xs.foldl f s) := by
  induction xs generalizing s with
  | nil => exact .refl s
  | cons x xs ih => exact (h s x).trans (ih _)

/-- A fold of operations inside an event. -/
theorem Inside.foldl {α : Type} {f : State → α → State} (h : ∀ s x, Inside s (f s x)) (xs : List α) (s : State) :
    Inside s (xs.foldl f s) := by
  induction xs generalizing s with
  | nil => exact .refl s
  | cons x xs ih => exact (h s x).trans (ih _)

/-- The fields that the frame of `Inside` is about. -/
def State.frame (s : State) : Memory × ConfigStore × Port × Port × Requester × Four Filter × Ms × Pins × List Instr :=
  (s.image, s.store, s.pPort, s.fPort, s.lastGranted, s.locks, s.ms, s.pins, s.pending)

/-- Which devices have a record follows from the working copy. -/
theorem hasRecord_of_store {s t : State} (h : t.store = s.store) (d : DevId) : t.hasRecord d = s.hasRecord d := by
  simp only [State.hasRecord, State.kindOf, State.entry, State.board, h]

/-- An operation that leaves the frame alone, by its parts. -/
theorem Calm.of_parts {s t : State} (frame : t.frame = s.frame) (dirty : ∀ off ∈ s.dirty, off ∈ t.dirty)
    (ordered : s.dirtyOrdered → t.dirtyOrdered) (one : s.oneInjectionEach → t.oneInjectionEach)
    (log : s.recorder.log.wf = true → t.recorder.log.wf = true) : Calm s t := by
  simp only [State.frame, Prod.mk.injEq] at frame
  obtain ⟨hi, hs, hp, hf, hg, hk, hm, hn, hq⟩ := frame
  have board : t.board = s.board := by simp only [State.board, hs]
  refine ⟨hi, by rw [hs], by rw [hs], hp, hf, hg, hk, hm, hn, hq, dirty, ordered, one, fun x => ?_, fun x => ?_⟩
  · refine ⟨by rw [hi]; exact x.1, by rw [hs]; exact x.2.1, log x.2.2.1, by rw [hs]; exact x.2.2.2⟩
  · unfold State.addressesOutside
    rw [hs, board]
    exact x

/-- An operation that leaves the frame and every observed position alone, and takes no device from EMERGENCY. -/
theorem Inside.of_parts {s t : State} (frame : t.frame = s.frame) (dirty : ∀ off ∈ s.dirty, off ∈ t.dirty)
    (ordered : s.dirtyOrdered → t.dirtyOrdered) (one : s.oneInjectionEach → t.oneInjectionEach)
    (log : s.recorder.log.wf = true → t.recorder.log.wf = true)
    (obs : ∀ d, (t.device d).observed = (s.device d).observed)
    (met : (∀ n, (s.source n).demand = true → (t.source n).demand = true))
    (latch : t.latch.isSet = s.latch.isSet)
    (own : ∀ d, (s.device d).owner = .emergency → (t.device d).owner = .emergency) : Inside s t := by
  have calm := Calm.of_parts frame dirty ordered one log
  simp only [State.frame, Prod.mk.injEq] at frame
  have board : t.board = s.board := by simp only [State.board, frame.2.1]
  have entry : ∀ d, t.entry d = s.entry d := fun d => by simp only [State.entry, board]
  have closed : ∀ n, t.incomerClosed n = s.incomerClosed n := fun n => by
    simp only [State.incomerClosed, State.incomerOf, State.incomerSource, State.kindOf, entry, obs]
  refine ⟨calm, fun h n hg hc => ?_, fun h hl d hr he => ?_⟩
  · have hg' : (s.sourceEntry n).generator = true := by simpa only [State.sourceEntry, board] using hg
    exact met n (h n hg' ((closed n).symm.trans hc))
  · exact own d (h (latch ▸ hl) d (hasRecord_of_store frame.2.1 d ▸ hr) (entry d ▸ he))

/-- The fields that `Inside` rests on. -/
def State.heavy (s : State) : (Memory × ConfigStore × Port × Port × Requester × Four Filter × Ms × Pins × List Instr) ×
    List Nat × Memory × List Injection × Sixteen Device × Four Source × Bool :=
  (s.frame, s.dirty, s.recorder.log, s.injections, s.devices, s.sources, s.latch.isSet)

/-- An operation on the other fields is inside. -/
theorem Inside.light {s t : State} (h : t.heavy = s.heavy) : Inside s t := by
  simp only [State.heavy, Prod.mk.injEq] at h
  obtain ⟨hf, hd, hl, hj, hv, ho, ht⟩ := h
  have dev : ∀ d, t.device d = s.device d := fun d => by simp only [State.device, hv]
  refine .of_parts hf (fun off m => by rw [hd]; exact m) (fun x => ?_) (fun x => ?_) (fun x => by rw [hl]; exact x)
    (fun d => by rw [dev]) (fun n => by simp only [State.source, ho]; exact id) ht (fun d => by rw [dev]; exact id)
  · unfold State.dirtyOrdered; rw [hd]; exact x
  · have store : t.store = s.store := congrArg (fun f => f.2.1) hf
    refine ⟨by rw [hj]; exact x.1, fun e m => ?_⟩
    rw [hasRecord_of_store store]
    exact x.2 e (hj ▸ m)

/-! ## The dirty set -/

theorem mem_insertOffset (off x : Nat) (xs : List Nat) : x ∈ insertOffset off xs ↔ x = off ∨ x ∈ xs := by
  induction xs with
  | nil => simp [insertOffset]
  | cons y ys ih =>
    unfold insertOffset
    split
    · simp
    · split
      · next h => subst h; simp
      · simp only [List.mem_cons, ih]
        constructor
        · rintro (h | h | h) <;> simp [h]
        · rintro (h | h | h) <;> simp [h]

theorem pairwise_insertOffset (off : Nat) (xs : List Nat) (h : xs.Pairwise (· < ·)) :
    (insertOffset off xs).Pairwise (· < ·) := by
  induction xs with
  | nil => simp [insertOffset]
  | cons y ys ih =>
    have hy := List.pairwise_cons.1 h
    unfold insertOffset
    split
    · next hlt =>
      refine List.pairwise_cons.2 ⟨fun z hz => ?_, h⟩
      rcases List.mem_cons.1 hz with e | e
      · omega
      · have := hy.1 z e
        omega
    · split
      · exact h
      · refine List.pairwise_cons.2 ⟨fun z hz => ?_, ih hy.2⟩
        rcases (mem_insertOffset off z ys).1 hz with e | e
        · omega
        · exact hy.1 z e

/-- Marking a report word dirty (R34). -/
theorem Inside.markDirty (s : State) (off : Nat) (h : isReportOffset off = true) : Inside s (s.markDirty off) := by
  refine .of_parts rfl (fun x m => ?_) (fun x => ⟨pairwise_insertOffset _ _ x.1, fun y m => ?_⟩) id id (fun _ => rfl)
    (fun _ => id) rfl (fun _ => id)
  · exact (mem_insertOffset off x s.dirty).2 (Or.inr m)
  · rcases (mem_insertOffset off y s.dirty).1 m with e | e
    · rw [e]; exact h
    · exact x.2 y e

/-- Marking report words dirty. -/
theorem Inside.markAll (s : State) (offs : List Nat) (h : ∀ off ∈ offs, isReportOffset off = true) :
    Inside s (s.markAll offs) := by
  induction offs generalizing s with
  | nil => exact .refl s
  | cons x xs ih =>
    exact (Inside.markDirty s x (h x (by simp))).trans (ih _ fun y m => h y (by simp [m]))

/-- A word marked is dirty. -/
theorem mem_markAll (s : State) (offs : List Nat) (x : Nat) : x ∈ (s.markAll offs).dirty ↔ x ∈ s.dirty ∨ x ∈ offs := by
  induction offs generalizing s with
  | nil => simp [State.markAll]
  | cons y ys ih =>
    have e : s.markAll (y :: ys) = (s.markDirty y).markAll ys := rfl
    rw [e, ih, State.markDirty_dirty, mem_insertOffset]
    simp only [List.mem_cons]
    constructor
    · rintro ((h | h) | h) <;> simp [h]
    · rintro (h | h | h) <;> simp [h]

/-- Marking changes the dirty set and nothing else. -/
theorem markAll_eq (s : State) (offs : List Nat) : s.markAll offs = { s with dirty := (s.markAll offs).dirty } := by
  induction offs generalizing s with
  | nil => rfl
  | cons y ys ih =>
    have e : s.markAll (y :: ys) = (s.markDirty y).markAll ys := rfl
    rw [e, ih]
    rfl

theorem isReport_status {off : Nat} (h : off ∈ statusOffsets) : isReportOffset off = true := by
  simp only [statusOffsets, List.mem_map, List.mem_range] at h
  obtain ⟨i, hi, rfl⟩ := h
  simp [isReportOffset]
  omega

theorem isReport_frame {off : Nat} (h : off ∈ frameOffsets) : isReportOffset off = true := by
  simp only [frameOffsets, List.mem_map, List.mem_range] at h
  obtain ⟨i, hi, rfl⟩ := h
  simp [isReportOffset]
  omega

theorem isReport_slot {i : Slot} {off : Nat} (h : off ∈ slotOffsets i) : isReportOffset off = true := by
  have := i.isLt
  simp only [slotOffsets, List.mem_map, List.mem_range] at h
  obtain ⟨j, hj, rfl⟩ := h
  simp [isReportOffset]
  omega

theorem isReport_of {off : Nat} (h : 0x200 ≤ off) (g : off < 0x240) : isReportOffset off = true := by
  simp [isReportOffset, h, g]

theorem isReport_device (d : DevId) : isReportOffset (deviceStatusOffset d) = true := by
  have := d.isLt
  exact isReport_of (by unfold deviceStatusOffset; omega) (by unfold deviceStatusOffset; omega)

theorem isReport_source (n : SrcId) : isReportOffset (sourceStatusOffset n) = true := by
  have := n.isLt
  exact isReport_of (by unfold sourceStatusOffset; omega) (by unfold sourceStatusOffset; omega)

theorem isReport_section (b : SecId) : isReportOffset (sectionStatusOffset b) = true := by
  have := b.isLt
  exact isReport_of (by unfold sectionStatusOffset; omega) (by unfold sectionStatusOffset; omega)

theorem isReport_context (k : CtxId) : ∀ off ∈ contextStatusOffsets k, isReportOffset off = true := by
  intro off h
  simp only [contextStatusOffsets, List.mem_cons, List.not_mem_nil, or_false] at h
  rcases h with rfl | rfl <;> simp [isReportOffset] <;> omega

theorem isReport_queue : ∀ off ∈ queueOffsets, isReportOffset off = true := by decide

/-- Marking the status words whose image has changed (log 9). -/
theorem Inside.markChanged (s before : State) : Inside s (s.markChanged before) :=
  .markAll s _ fun _ h => isReport_status (List.mem_filter.1 h).1

/-! ## Setters -/

/-- A change of a device's record that leaves its observed position, and its ownership by EMERGENCY. -/
theorem Inside.setDevice (s : State) (d : DevId) (x : Device) (h : x.observed = (s.device d).observed)
    (g : (s.device d).owner = .emergency → x.owner = .emergency) : Inside s (s.setDevice d x) := by
  have dev : ∀ e, (s.setDevice d x).device e = if e = d then x else s.device e := fun e => by
    simp [State.device, Sixteen.get_set]
  refine .of_parts rfl (fun _ => id) id id id (fun e => ?_) (fun _ => id) rfl (fun e o => ?_)
  · rw [dev]
    split
    · next he => rw [he, h]
    · rfl
  · rw [dev]
    split
    · next he => exact g (he ▸ o)
    · exact o

/-- A change of a device's record that leaves its observed position and its owner. -/
theorem Inside.updDevice (s : State) (d : DevId) (f : Device → Device) (h : ∀ x, (f x).observed = x.observed)
    (g : ∀ x, (f x).owner = x.owner) : Inside s (s.updDevice d f) :=
  .setDevice s d _ (h _) fun e => by rw [g]; exact e

theorem Inside.setContext (s : State) (k : CtxId) (c : Context) : Inside s (s.setContext k c) := .light rfl
theorem Inside.updContext (s : State) (k : CtxId) (f : Context → Context) : Inside s (s.updContext k f) := .light rfl
theorem Inside.setSection (s : State) (b : SecId) (x : Section) : Inside s (s.setSection b x) := .light rfl

theorem Inside.setSectionState (s : State) (b : SecId) (st : SectionState) : Inside s (s.setSectionState b st) := by
  unfold State.setSectionState
  split
  · exact .refl s
  · exact (Inside.setSection s b _).trans (.markDirty _ _ (isReport_section b))

theorem Inside.setSectionStates (s : State) (bs : List SecId) (st : SectionState) : Inside s (s.setSectionStates bs st) :=
  .foldl (fun s b => .setSectionState s b st) bs s

theorem Inside.setQueue (s : State) (q : List Request) : Inside s (s.setQueue q) := by
  unfold State.setQueue
  exact (Inside.light rfl : Inside s { s with queue := q }).trans
    (.markAll _ _ fun _ h => isReport_queue _ (List.mem_filter.1 h).1)

/-- A commit status and a reject offset, with the words that they mark (R14). -/
theorem Inside.setCommit (s : State) (status : CommitStatus) (reject : Option Nat) :
    Inside s (s.setCommit status reject) := by
  unfold State.setCommit
  split
  · exact .refl s
  · refine Inside.trans ?_ (.markAll _ _ (by decide))
    exact ⟨⟨rfl, rfl, rfl, rfl, rfl, rfl, rfl, rfl, rfl, rfl, fun _ => id, id, id, id, id⟩, id, id⟩

/-- A move of ownership that takes no device from EMERGENCY (R49). -/
theorem Inside.setOwner (s : State) (d : DevId) (o : Owner) (h : (s.device d).owner = .emergency → o = .emergency) :
    Inside s (s.setOwner d o) := by
  unfold State.setOwner
  split
  · exact .refl s
  · exact (Inside.setDevice s d { s.device d with owner := o } rfl h).trans (.markDirty _ _ (isReport_device d))

/-- A change of a source that keeps its run demand. -/
theorem Inside.setSource (s : State) (n : SrcId) (x : Source) (h : (s.source n).demand = true → x.demand = true) :
    Inside s (s.setSource n x) := by
  refine .of_parts rfl (fun _ => id) id id id (fun _ => rfl) (fun m e => ?_) rfl (fun _ => id)
  have src : (s.setSource n x).source m = if m = n then x else s.source m := by simp [State.source, Four.get_set]
  rw [src]
  split
  · next hm => exact h (hm ▸ e)
  · exact e

theorem Inside.updSource (s : State) (n : SrcId) (f : Source → Source) (h : ∀ x, (f x).demand = x.demand) :
    Inside s (s.updSource n f) := .setSource s n _ fun e => by rw [h]; exact e

/-! ## The injection queue (R30, R31) -/

/-- A change of the injection queue that keeps one entry for each device, and entries for devices with a record only. -/
theorem Inside.setInjections (s : State) (q : List Injection)
    (h : s.oneInjectionEach →
      (q.Pairwise fun a b => a.device ≠ b.device) ∧ ∀ e ∈ q, s.hasRecord e.device = true) :
    Inside s { s with injections := q } :=
  .of_parts rfl (fun _ => id) id h id (fun _ => rfl) (fun _ => id) rfl (fun _ => id)

/-- Queuing a command (R30). -/
theorem Inside.enqueue (s : State) (d : DevId) (code : Cmd) (owner : Enqueuer) : Inside s (s.enqueue d code owner) := by
  unfold State.enqueue
  split
  · next hr =>
    refine (Inside.setInjections s _ fun h => ?_).trans (.markDirty _ _ (isReport_device d))
    unfold joinInjection
    split
    · refine ⟨List.pairwise_map.2 (h.1.imp fun {a b} hab => ?_), fun e m => ?_⟩
      · split <;> split <;> simp_all
      · obtain ⟨x, mx, rfl⟩ := List.mem_map.1 m
        split
        · exact hr
        · exact h.2 x mx
    · next hno =>
      have alone : ∀ a ∈ s.injections, a.device ≠ d := fun a ha e =>
        hno (List.any_eq_true.2 ⟨a, ha, by simpa [State.injectionFor] using e⟩)
      refine ⟨List.pairwise_append.2 ⟨h.1, by simp, fun a ha b hb => ?_⟩, fun e m => ?_⟩
      · rw [List.mem_singleton.1 hb]
        exact alone a ha
      · rcases List.mem_append.1 m with m | m
        · exact h.2 e m
        · rw [List.mem_singleton.1 m]
          exact hr
  · exact .refl s

theorem Inside.dropInjections (s : State) (p : Injection → Bool) : Inside s (s.dropInjections p) := by
  unfold State.dropInjections
  refine (Inside.setInjections s _ fun h =>
    ⟨List.Pairwise.filter _ h.1, fun e m => h.2 e (List.mem_filter.1 m).1⟩).trans (.markAll _ _ fun off m => ?_)
  obtain ⟨e, _, rfl⟩ := List.mem_map.1 m
  exact isReport_device e.device

theorem Inside.dropInjection (s : State) (d : DevId) : Inside s (s.dropInjection d) := .dropInjections s _

theorem Inside.cancelCloses (s : State) (k : CtxId) : Inside s (s.cancelCloses k) := .dropInjections s _

/-! ## Frames, contexts, the selector -/

theorem Inside.freeContext (s : State) (k : CtxId) : Inside s (s.freeContext k) :=
  (Inside.setContext s k _).trans (.markAll _ _ (isReport_context k))

theorem Inside.clearMark (s : State) (k : CtxId) : Inside s (s.clearMark k) := .light rfl

theorem Inside.reuseSlot (s : State) (i : Slot) : Inside s (s.reuseSlot i) := by
  unfold State.reuseSlot
  split
  · exact ((Inside.freeContext s _).trans (.clearMark _ _)).trans (.light rfl)
  · exact .refl s

/-- A change of the recorder that keeps the frame images canonical. -/
theorem Inside.setRecorder (s : State) (r : Recorder) (h : s.recorder.log.wf = true → r.log.wf = true) :
    Inside s { s with recorder := r } :=
  .of_parts rfl (fun _ => id) id id h (fun _ => rfl) (fun _ => id) rfl (fun _ => id)

/-- Raising a frame (R168). -/
theorem Inside.raise (s : State) (i : Incident) : Inside s (s.raise i) := by
  unfold State.raise
  refine ((Inside.reuseSlot s _).trans (Inside.setRecorder _ _ fun h => Memory.wf_writeAll _ _ _ h)).trans
    (.markAll _ _ fun off m => ?_)
  rcases List.mem_cons.1 m with e | e
  · rw [e]; rfl
  · exact isReport_slot e

theorem Inside.releaseSync (s : State) : Inside s s.releaseSync := by
  unfold State.releaseSync
  split
  · exact .light rfl
  · exact .refl s

theorem Inside.withdrawClaim (s : State) (k : CtxId) : Inside s (s.withdrawClaim k) := by
  unfold State.withdrawClaim
  split
  · exact .refl s
  · exact .light rfl
  · exact (Inside.releaseSync s).trans (.updContext _ _ _)

/-! ## Run demand (R84, R85) -/

theorem runDemand_of_closed (s : State) (n : SrcId) (hg : (s.sourceEntry n).generator = true)
    (hc : s.incomerClosed n = true) : s.runDemand n = true := by
  simp [State.runDemand, hg, hc]

/-- Run demand once worked out: a GENERATOR whose incomer is observed CLOSED has it. -/
theorem demanded_demand (s : State) (n : SrcId) (hg : (s.sourceEntry n).generator = true)
    (hc : s.incomerClosed n = true) : (s.demanded n).demand = true := by
  have := runDemand_of_closed s n hg hc
  simp [State.demanded, hg, this]

theorem source_setSource (s : State) (n m : SrcId) (x : Source) :
    (s.setSource n x).source m = if m = n then x else s.source m := by
  simp [State.source, Four.get_set]

/-- Working out the run demand of a source: what it is afterwards, for that source and for the others. -/
theorem source_workOutDemand (s : State) (n m : SrcId) :
    (s.workOutDemand n).source m = if m = n then s.demanded n else s.source m := by
  unfold State.workOutDemand
  split
  · next h =>
    split
    · next hm => rw [h, hm]
    · rfl
  · exact source_setSource s n m _

theorem Inside.workOutDemand (s : State) (n : SrcId) : Inside s (s.workOutDemand n) := by
  have calm : Calm s (s.workOutDemand n) := by
    unfold State.workOutDemand
    split
    · exact .refl s
    · refine Calm.trans (t := s.setSource n (s.demanded n)) ?_ (Inside.markDirty _ _ (isReport_source n)).toCalm
      exact .of_parts rfl (fun _ => id) id id id
  have same : (s.workOutDemand n).store = s.store ∧ (s.workOutDemand n).devices = s.devices ∧
      (s.workOutDemand n).latch = s.latch := by
    unfold State.workOutDemand
    split <;> exact ⟨rfl, rfl, rfl⟩
  have board : (s.workOutDemand n).board = s.board := by simp only [State.board, same.1]
  have entry : ∀ d, (s.workOutDemand n).entry d = s.entry d := fun d => by simp only [State.entry, board]
  refine ⟨calm, fun h m hg hc => ?_, fun h hl d hr he => ?_⟩
  · have hg' : (s.sourceEntry m).generator = true := by simpa only [State.sourceEntry, board] using hg
    have hc' : s.incomerClosed m = true := by
      simpa only [State.incomerClosed, State.incomerOf, State.incomerSource, State.kindOf, entry, State.device,
        same.2.1] using hc
    rw [source_workOutDemand]
    split
    · next hm => subst hm; exact demanded_demand s m hg' hc'
    · exact h m hg' hc'
  · rw [State.device, same.2.1]
    exact h (same.2.2 ▸ hl) d (hasRecord_of_store same.1 d ▸ hr) (entry d ▸ he)

theorem Inside.workOutDemands (s : State) : Inside s s.workOutDemands := .foldl .workOutDemand _ s

end Sys2Proof.Machine
end

