-- ==== Sys2Proof/Laws/InsideEngine.lean ====
section
/-! SUPPORT. What the operations of the Section Controller and the Transfer Engine can do: each is `Inside`, given that
context assignment is. -/

namespace Sys2Proof.Machine

/-! ## Evaluation and the queue (R95 to R100) -/

theorem Inside.queueSections (s : State) (e : Request) : Inside s (s.queueSections e) := .setSectionStates s _ _

variable {asg : State → State} (hA : ∀ s, Inside s (asg s))
include hA

theorem Inside.placeSupply (ev : List SecId → State → State) (hev : ∀ bs s, Inside s (ev bs s)) (e : Request) (s : State) :
    Inside s (s.placeSupply asg ev e) := by
  unfold State.placeSupply
  exact ((((Inside.setQueue s _).trans (.queueSections _ _)).trans (.setSectionStates _ _ _)).trans (hev _ _)).trans (hA _)

theorem Inside.placeReturn (e : Request) (s : State) : Inside s (s.placeReturn asg e) := by
  unfold State.placeReturn
  split
  · exact .refl s
  · exact ((Inside.setQueue s _).trans (.queueSections _ _)).trans (hA _)

theorem Inside.placeManual (e : Request) (s : State) : Inside s (s.placeManual asg e) :=
  ((Inside.setQueue s _).trans (.queueSections _ _)).trans (hA _)

theorem Inside.evaluateReturnSet (f : SrcId) (cause : Option Slot) (s : State) (x : FourSet) :
    Inside s (State.evaluateReturnSet asg f cause s x) := by
  unfold State.evaluateReturnSet
  dsimp only
  split
  · split
    · exact .placeReturn hA _ s
    · exact .refl s
  · exact .refl s

theorem Inside.evaluateReturn (b : SecId) (cause : Option Slot) (s : State) : Inside s (s.evaluateReturn asg b cause) := by
  unfold State.evaluateReturn
  dsimp only
  split
  · split
    · exact .foldl (Inside.evaluateReturnSet hA _ cause) _ s
    · exact .refl s
  · exact .refl s

theorem Inside.evaluateN (n : Nat) (cause : Option Slot) (bs : List SecId) (s : State) :
    Inside s (Machine.evaluateN asg n cause bs s) := by
  induction n generalizing cause bs s with
  | zero => exact .refl s
  | succ n ih =>
    unfold Machine.evaluateN
    refine .foldl (fun s b => ?_) _ s
    dsimp only
    split
    · split
      · exact .refl s
      · split
        · exact .placeSupply hA _ (fun bs s => ih none bs s) _ s
        · exact .setSectionStates s _ _
    · exact .evaluateReturn hA b cause s

theorem Inside.evaluate (cause : Option Slot) (bs : List SecId) (s : State) : Inside s (s.evaluate asg cause bs) :=
  .evaluateN hA 5 cause bs s

omit hA in
theorem Inside.removeRequest (s : State) (e : Request) : Inside s (s.removeRequest e) := .setQueue s _

theorem Inside.withdrawArmed (e : Request) (s : State) : Inside s (s.withdrawArmed asg e) :=
  ((Inside.removeRequest s e).trans (.setSectionStates _ _ _)).trans (.evaluate hA _ _ _)

omit hA in
theorem Inside.withdrawHeld (e : Request) (s : State) : Inside s (s.withdrawHeld e) :=
  (Inside.removeRequest s e).trans (.setSectionStates _ _ _)

/-! ## Ending (R124, R156) -/

omit hA in
theorem Inside.command (s : State) (k : CtxId) (code : Cmd) (d : Option DevId) : Inside s (s.command k code d) := by
  unfold State.command
  split
  · split
    · exact .enqueue s _ _ _
    · exact .refl s
  · exact .refl s

omit hA in
theorem Inside.openRoute (s : State) (k : CtxId) : Inside s (s.openRoute k) := by
  unfold State.openRoute
  split
  · split
    · exact .command s _ _ _
    · exact .refl s
  · exact .refl s

omit hA in
theorem Inside.startTimer (s : State) (k : CtxId) (t : TimerKind) (ms : Nat) : Inside s (s.startTimer k t ms) :=
  .updContext s k _

omit hA in
theorem Inside.parallelRule (s : State) (k : CtxId) : Inside s (s.parallelRule k) := by
  unfold State.parallelRule
  dsimp only
  split
  · exact .refl s
  · split
    · exact .command s _ _ _
    · exact .refl s

omit hA in
theorem Inside.recheck (k : CtxId) (s : State) (d : DevId) : Inside s (State.recheck k s d) := by
  unfold State.recheck
  dsimp only
  have h : Inside s (s.updDevice d fun x => { x with deferred := none }) := .updDevice s d _ (fun _ => rfl) fun _ => rfl
  split
  · exact .refl s
  · split
    · exact h.trans (.enqueue _ _ _ _)
    · exact h.trans (.raise _ _)
    · exact h

omit hA in
/-- Returning devices that EMERGENCY does not own to PROCESSOR. -/
theorem Inside.returnDevices (ds : List DevId) (s : State) (h : ∀ d ∈ ds, (s.device d).owner ≠ .emergency) :
    Inside s (ds.foldl (fun s d => s.setOwner d .processor) s) := by
  induction ds generalizing s with
  | nil => exact .refl s
  | cons d ds ih =>
    refine (Inside.setOwner s d .processor fun e => absurd e (h d (by simp))).trans (ih _ fun e m => ?_)
    have he := h e (by simp [m])
    unfold State.setOwner
    split
    · exact he
    · simp only [State.device, State.markDirty_devices, State.updDevice_devices, Sixteen.get_set]
      split
      · simp
      · exact he

omit hA in
theorem owns_owner {s : State} {k : CtxId} {d : DevId} (h : s.owns k d = true) : (s.device d).owner = .context k := by
  simp [State.owns] at h
  exact h.2

omit hA in
theorem Inside.release (s : State) (k : CtxId) : Inside s (s.release k) := by
  unfold State.release
  refine ((Inside.cancelCloses s k).trans (.returnDevices _ _ fun d m => ?_)).trans (.foldl (Inside.recheck k) _ _)
  rw [owns_owner (List.mem_filter.1 m).2]
  simp

omit hA in
theorem Inside.handOver (c : Context) (s : State) (b : SecId) : Inside s (State.handOver c s b) := .setSection s b _

theorem Inside.endSections (k : CtxId) (r : Result) (named : FourSet) (s : State) :
    Inside s (s.endSections asg k r named) := by
  unfold State.endSections
  dsimp only
  refine Inside.trans ?_ (.evaluate hA _ _ _)
  split
  · refine Inside.trans ?_ (.foldl (Inside.handOver _) _ _)
    exact .foldl (fun s b => .setSectionState s b _) _ s
  · exact .foldl (fun s b => .setSectionState s b _) _ s

omit hA in
theorem Inside.raiseEnd (k : CtxId) (r : Result) (s : State) : Inside s (s.raiseEnd k r) := by
  unfold State.raiseEnd
  dsimp only
  exact (Inside.raise s (s.transferEnd k r)).trans (.setRecorder _ _ fun h => h)

theorem Inside.endContext (k : CtxId) (r : Result) (named : FourSet) (s : State) :
    Inside s (Machine.endContext asg k r named s) := by
  unfold Machine.endContext
  dsimp only
  refine Inside.trans ?_ (.raiseEnd k r _)
  refine Inside.trans ?_ (.endSections hA k r named _)
  refine Inside.trans ?_ (.release _ k)
  refine Inside.trans ?_ (.workOutDemands _)
  refine Inside.trans ?_ (.updContext _ k _)
  exact (Inside.parallelRule s k).trans (.withdrawClaim _ k)

/-! ## RESTORING (R120 to R123) -/

theorem Inside.endRestore (k : CtxId) (s : State) : Inside s (Machine.endRestore asg k s) := .endContext hA k _ _ s

theorem Inside.restoreWalk (k : CtxId) (ds : List DevId) (s : State) : Inside s (Machine.restoreWalk asg k ds s) := by
  induction ds generalizing s with
  | nil => exact .endRestore hA k s
  | cons d ds ih =>
    unfold Machine.restoreWalk
    split
    · exact (Inside.updContext s k _).trans (ih _)
    · split
      · exact (Inside.updContext s k _).trans (ih _)
      · exact (Inside.enqueue s _ _ _).trans (.updContext _ k _)

theorem Inside.restoreNext (k : CtxId) (s : State) : Inside s (Machine.restoreNext asg k s) := by
  unfold Machine.restoreNext
  dsimp only
  split
  · exact .refl s
  · split
    · exact .endRestore hA k s
    · split
      · exact .refl s
      · exact .restoreWalk hA k _ s

theorem Inside.enterRestoring (k : CtxId) (s : State) : Inside s (Machine.enterRestoring asg k s) :=
  (Inside.updContext s k _).trans (.restoreNext hA k _)

theorem Inside.settleFeeder (k : CtxId) (s : State) : Inside s (Machine.settleFeeder asg k s) :=
  (Inside.updContext s k _).trans (.restoreNext hA k _)

theorem Inside.dropFeeder (k : CtxId) (d : DevId) (s : State) : Inside s (Machine.dropFeeder asg k d s) :=
  (Inside.updContext s k _).trans (.restoreNext hA k _)

/-! ## OPENING, DEAD_WAIT and SELECT (R111 to R117) -/

omit hA in
theorem Inside.enterDeadWait (s : State) (k : CtxId) : Inside s (s.enterDeadWait k) :=
  (Inside.updContext s k _).trans (.startTimer _ k _ _)

theorem Inside.leaveOpening (k : CtxId) (s : State) : Inside s (Machine.leaveOpening asg k s) := by
  unfold Machine.leaveOpening
  dsimp only
  split
  · exact .endContext hA k _ _ s
  · split
    · exact .enterDeadWait s k
    · exact .endContext hA k _ _ s

theorem Inside.enterOpening (k : CtxId) (s : State) : Inside s (Machine.enterOpening asg k s) := by
  unfold Machine.enterOpening
  dsimp only
  split
  · exact (Inside.updContext s k _).trans (.endContext hA k _ _ _)
  · split
    · exact (((Inside.updContext s k _).trans (.foldl (fun s d => .enqueue s d _ _) _ _)).trans
        (.updContext _ k _)).trans (.leaveOpening hA k _)
    · exact ((Inside.updContext s k _).trans (.foldl (fun s d => .enqueue s d _ _) _ _)).trans (.updContext _ k _)

theorem Inside.takeRoute (k : CtxId) (r : Route) (s : State) : Inside s (Machine.takeRoute asg k r s) :=
  ((Inside.updContext s k _).trans (.workOutDemands _)).trans (.enterOpening hA k _)

omit hA in
theorem Inside.enterAwait (s : State) (k : CtxId) (n : SrcId) : Inside s (s.enterAwait k n) := by
  unfold State.enterAwait
  dsimp only
  split
  · exact (Inside.updContext s k _).trans (.workOutDemands _)
  · exact ((Inside.startTimer s k _ _).trans (.updContext _ k _)).trans (.workOutDemands _)

theorem Inside.selectList (k : CtxId) (s : State) : Inside s (Machine.selectList asg k s) := by
  unfold Machine.selectList
  dsimp only
  split
  · exact .endContext hA k _ _ s
  · split
    · exact .takeRoute hA k _ s
    · split
      · exact .enterAwait s k _
      · exact .endContext hA k _ _ s

theorem Inside.selectFixed (k : CtxId) (r : Route) (s : State) : Inside s (Machine.selectFixed asg k r s) := by
  unfold Machine.selectFixed
  dsimp only
  split
  · exact .takeRoute hA k r s
  · split
    · exact .endContext hA k _ _ s
    · exact (Inside.updContext s k _).trans (.selectList hA k _)

theorem Inside.enterSelect (k : CtxId) (s : State) : Inside s (Machine.enterSelect asg k s) := by
  unfold Machine.enterSelect
  dsimp only
  split
  · exact (Inside.updContext s k _).trans (.selectFixed hA k _ _)
  · exact (Inside.updContext s k _).trans (.selectList hA k _)

theorem Inside.openingSettled (k : CtxId) (s : State) : Inside s (Machine.openingSettled asg k s) := by
  unfold Machine.openingSettled
  dsimp only
  split
  · exact .enterSelect hA k s
  · exact .leaveOpening hA k s

theorem Inside.settleOpen (k : CtxId) (d : DevId) (failed : Bool) (s : State) :
    Inside s (Machine.settleOpen asg k d failed s) := by
  unfold Machine.settleOpen
  extract_lets t
  have h : Inside s t := .updContext s k _
  split
  · exact h.trans (.openingSettled hA k t)
  · exact h

/-! ## Back to SELECT, CLOSING, the closed transition (R118, R134 to R143) -/

theorem Inside.returnToSelect (k : CtxId) (excluded : Option Route) (oldUnsettled : Bool) (s : State) :
    Inside s (Machine.returnToSelect asg k excluded oldUnsettled s) := by
  unfold Machine.returnToSelect
  dsimp only
  have h := (((Inside.updContext s k fun c => c.exclude excluded).trans (.withdrawClaim _ k)).trans (.updContext _ k
    fun c => { c with transition := .opn, timer := keptTimer c.timer, restoring := none })).trans (.cancelCloses _ k)
  split
  · exact h.trans (.updContext _ k _)
  · exact h.trans (.enterSelect hA k _)

theorem Inside.rerouteTarget (k : CtxId) (s : State) : Inside s (Machine.rerouteTarget asg k s) :=
  .returnToSelect hA k _ _ s

theorem Inside.enterClosing (k : CtxId) (s : State) : Inside s (Machine.enterClosing asg k s) := by
  unfold Machine.enterClosing
  dsimp only
  split
  · split
    · exact (Inside.updContext s k _).trans (.command _ k _ _)
    · exact (Inside.updContext s k _).trans (.rerouteTarget hA k _)
  · exact (Inside.updContext s k _).trans (.rerouteTarget hA k _)

theorem Inside.enterSyncWait (k : CtxId) (s : State) : Inside s (Machine.enterSyncWait asg k s) := by
  unfold Machine.enterSyncWait
  dsimp only
  split
  · exact .light rfl
  · refine Inside.trans ?_ (.returnToSelect hA k _ _ _)
    exact .updContext s k _

omit hA in
theorem Inside.openOld (s : State) (k : CtxId) : Inside s (s.openOld k) := by
  unfold State.openOld
  split
  · split
    · exact .command s _ _ _
    · exact .refl s
  · exact .refl s

theorem Inside.enterOpeningOld (k : CtxId) (s : State) : Inside s (Machine.enterOpeningOld asg k s) := by
  unfold Machine.enterOpeningOld
  dsimp only
  have h := (Inside.updContext s k fun c => { c with phase := .openingOld }).trans (.openOld _ k)
  split
  · exact (h.trans (.updContext _ k _)).trans (.enterRestoring hA k _)
  · exact h.trans (.startTimer _ k _ _)

theorem Inside.oldOpened (k : CtxId) (s : State) : Inside s (Machine.oldOpened asg k s) := by
  unfold Machine.oldOpened
  split
  · exact .enterSelect hA k s
  · exact (Inside.updContext s k _).trans (.enterRestoring hA k _)

theorem Inside.endOverlap (k : CtxId) (raises : Bool) (s : State) : Inside s (Machine.endOverlap asg k raises s) := by
  unfold Machine.endOverlap
  dsimp only
  split
  · exact ((Inside.command s k _ _).trans (.raise _ _)).trans (.endContext hA k _ _ _)
  · exact (Inside.command s k _ _).trans (.endContext hA k _ _ _)

theorem Inside.failParallel (k : CtxId) (s : State) : Inside s (Machine.failParallel asg k s) :=
  (Inside.openRoute s k).trans (.endContext hA k _ _ _)

/-! ## Notices (R48, R142) -/

omit hA in
theorem Inside.countOwn (s : State) (k : CtxId) (d : DevId) : Inside s (s.countOwn k d) := .updContext s k _

theorem Inside.operatorOpensOld (k : CtxId) (d : DevId) (s : State) : Inside s (Machine.operatorOpensOld asg k d s) :=
  (Inside.countOwn s k d).trans (.returnToSelect hA k _ _ _)

theorem Inside.onCompleted (k : CtxId) (d : DevId) (code : Cmd) (s : State) :
    Inside s (Machine.onCompleted asg k d code s) := by
  unfold Machine.onCompleted
  dsimp only
  split
  · exact .refl s
  · split
    · exact .oldOpened hA k s
    · split
      · split
        · exact .settleOpen hA k d false s
        · exact .refl s
      · split
        · exact .enterRestoring hA k s
        · exact .refl s
      · split
        · exact .settleFeeder hA k s
        · exact .refl s
      · split
        · exact .enterOpeningOld hA k s
        · exact .refl s
      · exact .refl s

theorem Inside.onFailed (k : CtxId) (d : DevId) (code : Cmd) (s : State) :
    Inside s (Machine.onFailed asg k d code s) := by
  unfold Machine.onFailed
  dsimp only
  split
  · exact .refl s
  · split
    · split
      · exact .endContext hA k _ _ s
      · exact .endOverlap hA k false s
    · split
      · split
        · exact .settleOpen hA k d true s
        · exact .refl s
      · split
        · split
          · exact .rerouteTarget hA k s
          · exact .endContext hA k _ _ s
        · exact .refl s
      · split
        · exact .settleFeeder hA k s
        · exact .refl s
      · split
        · exact .failParallel hA k s
        · exact .refl s
      · exact .refl s

omit hA in
theorem Inside.onReached (k : CtxId) (d : DevId) (code : Cmd) (s : State) : Inside s (Machine.onReached k d code s) := by
  unfold Machine.onReached
  dsimp only
  split
  · split
    · exact .countOwn s k d
    · exact .refl s
  · split
    · exact .countOwn s k d
    · exact .refl s
  · split
    · exact (Inside.updContext s k _).trans (.startTimer _ k _ _)
    · exact .refl s
  · exact (Inside.updContext s k _).trans (.startTimer _ k _ _)
  · split
    · exact .withdrawClaim s k
    · exact .refl s
  · exact .refl s

theorem Inside.onRefused (k : CtxId) (d : DevId) (s : State) : Inside s (Machine.onRefused asg k d s) := by
  unfold Machine.onRefused
  dsimp only
  split
  · split
    · exact .rerouteTarget hA k s
    · exact .refl s
  · split
    · exact .rerouteTarget hA k s
    · exact .refl s
  · split
    · exact (Inside.updContext s k _).trans (.settleFeeder hA k _)
    · exact .refl s
  · exact .refl s

theorem Inside.onPosition (k : CtxId) (d : DevId) (was : Position) (wasClosed tripRose : Bool) (s : State) :
    Inside s (Machine.onPosition asg k d was wasClosed tripRose s) := by
  unfold Machine.onPosition
  dsimp only
  split
  · exact .refl s
  · split
    · exact .endContext hA k _ _ s
    · split
      · exact .oldOpened hA k s
      · split
        · split
          · exact .returnToSelect hA k _ _ s
          · exact .returnToSelect hA k _ _ s
          · split
            · exact .refl s
            · exact .returnToSelect hA k _ _ s
          · exact .refl s
        · exact .refl s

theorem Inside.onOperatorOpen (k : CtxId) (d : DevId) (wasClosed : Bool) (s : State) :
    Inside s (Machine.onOperatorOpen asg k d wasClosed s) := by
  unfold Machine.onOperatorOpen
  dsimp only
  split
  · exact .refl s
  · split
    · exact .endContext hA k _ _ s
    · split
      · exact .endContext hA k _ _ s
      · split
        · split
          · exact (Inside.countOwn s k d).trans (.updContext _ k _)
          · exact .refl s
        · split
          · exact .operatorOpensOld hA k d s
          · exact .refl s
        · split
          · split
            · exact .operatorOpensOld hA k d s
            · exact .countOwn s k d
          · exact .refl s
        · split
          · exact .countOwn s k d
          · exact .refl s
        · split
          · exact .dropFeeder hA k d s
          · exact .refl s
        · exact .refl s

theorem Inside.onSourceLost (n : SrcId) (s : State) (k : CtxId) : Inside s (Machine.onSourceLost asg n s k) := by
  unfold Machine.onSourceLost
  dsimp only
  split
  · exact .refl s
  · split
    · split
      · exact .rerouteTarget hA k s
      · exact .rerouteTarget hA k s
      · exact .rerouteTarget hA k s
      · exact .rerouteTarget hA k s
      · split
        · exact .refl s
        · exact .endContext hA k _ _ s
      · exact (Inside.openRoute s k).trans (.endContext hA k _ _ _)
      · exact (Inside.updContext s k _).trans (.rerouteTarget hA k _)
      · exact .refl s
      · exact .refl s
      · exact .refl s
    · split
      · exact .returnToSelect hA k _ _ s
      · exact .refl s

omit hA in
theorem Inside.tellEach (s : State) (who : CtxId → Bool) {f : State → CtxId → State} (h : ∀ s k, Inside s (f s k)) :
    Inside s (s.tellEach who f) := .foldl h _ s

theorem Inside.onSourceReturned (s : State) (k : CtxId) : Inside s (Machine.onSourceReturned asg s k) := by
  unfold Machine.onSourceReturned
  split
  · exact .enterSelect hA k s
  · exact .refl s

theorem Inside.onLock (k : CtxId) (s : State) : Inside s (Machine.onLock asg k s) := by
  unfold Machine.onLock
  split
  · exact .endContext hA k _ _ s
  · exact .refl s

theorem Inside.onDisarm (k : CtxId) (named : FourSet) (s : State) : Inside s (Machine.onDisarm asg k named s) := by
  unfold Machine.onDisarm
  split
  · exact .endContext hA k _ _ s
  · exact .refl s

theorem Inside.onTrip (d : DevId) (unfed : FourSet) (s : State) (k : CtxId) :
    Inside s (Machine.onTrip asg d unfed s k) := by
  unfold Machine.onTrip
  dsimp only
  split
  · exact .refl s
  · split
    · exact .endContext hA k _ _ s
    · split
      · exact .endContext hA k _ _ s
      · split
        · exact .rerouteTarget hA k s
        · split
          · split
            · exact .returnToSelect hA k _ _ s
            · exact .refl s
          · split
            · exact .rerouteTarget hA k s
            · exact .refl s
          · split
            · exact .rerouteTarget hA k s
            · exact .refl s
          · exact .refl s

theorem Inside.onLeave (k : CtxId) (running : SrcId) (s : State) : Inside s (Machine.onLeave asg k running s) := by
  unfold Machine.onLeave
  split
  · split
    · exact (Inside.command s k _ _).trans (.updContext _ k _)
    · exact .returnToSelect hA k _ _ s
  · exact .refl s

theorem Inside.onTimeout (k : CtxId) (s : State) : Inside s (Machine.onTimeout asg k s) := by
  unfold Machine.onTimeout
  dsimp only
  split
  · split
    · exact .returnToSelect hA k _ _ s
    · exact (Inside.cancelCloses s k).trans (.endContext hA k _ _ _)
  · exact .refl s

/-! ## Starting (R109) -/

omit hA in
theorem Inside.capture (k : CtxId) (s : State) (d : DevId) : Inside s (State.capture k s d) := by
  unfold State.capture
  dsimp only
  split
  · next h =>
    refine (Inside.setOwner s d _ fun e => ?_).trans (.dropInjections _ _)
    simp [e] at h
  · exact .refl s

theorem Inside.startContext (k : CtxId) (e : Request) (set : FourSet) (s : State) :
    Inside s (Machine.startContext asg k e set s) := by
  unfold Machine.startContext
  dsimp only
  have h := (Inside.setContext s k (s.startRecord e set)).trans (.foldl (Inside.capture k) allDevices _)
  split
  · exact h.trans (.enterSelect hA k _)
  · exact h.trans (.enterSyncWait hA k _)

/-! ## Assignment (R101, R102) -/

theorem Inside.failTaking (e : Request) (t : Taking) (s : State) : Inside s (s.failTaking asg e t) := by
  unfold State.failTaking
  dsimp only
  split
  · exact .withdrawHeld e s
  · exact .withdrawArmed hA e s
  · split
    · exact (Inside.raise s _).trans (.withdrawArmed hA e _)
    · exact .withdrawArmed hA e s
  · exact .refl s

theorem Inside.take (k : CtxId) (e : Request) (set : FourSet) (s : State) : Inside s (s.take asg k e set) := by
  unfold State.take
  dsimp only
  refine Inside.trans ?_ (.startContext hA k e set _)
  refine Inside.trans ?_ (.setSectionStates _ _ _)
  refine Inside.trans ?_ (.setSectionStates _ _ _)
  refine Inside.trans (Inside.setQueue s (s.queue.filter fun x => x != e && !x.set.within set)) ?_
  exact .light rfl

omit hA in
theorem Inside.assignN (n : Nat) (s : State) : Inside s (Machine.assignN n s) := by
  induction n generalizing s with
  | zero => exact .refl s
  | succ n ih =>
    unfold Machine.assignN
    split
    · exact .refl s
    · split
      · split
        · exact (Inside.take ih _ _ _ s).trans (ih _)
        · exact (Inside.failTaking ih _ _ s).trans (ih _)
      · exact .refl s

omit hA in
/-- Context assignment (R101). -/
theorem Inside.assign (s : State) : Inside s (Machine.assign s) := .assignN _ s

end Sys2Proof.Machine
end

