-- ==== Sys2Proof/Laws/InsideEvent.lean ====
section
/-! SUPPORT. Application (R16 to R18) and the end of an event: what they can do, and what the end of an event leaves: nothing
freed, and every status word whose image has changed dirty. -/

namespace Sys2Proof.Machine

/-! ## Run demand and the latch once worked out -/

theorem demandsMet_workOutDemands (s : State) : s.workOutDemands.demandsMet := by
  have key : ∀ (xs : List SrcId) (t : State) (n : SrcId),
      (n ∈ xs ∨ ((t.sourceEntry n).generator = true → t.incomerClosed n = true → (t.source n).demand = true)) →
      ((xs.foldl State.workOutDemand t).sourceEntry n).generator = true →
      (xs.foldl State.workOutDemand t).incomerClosed n = true → ((xs.foldl State.workOutDemand t).source n).demand = true := by
    intro xs
    induction xs with
    | nil =>
      intro t n h
      rcases h with h | h
      · cases h
      · exact h
    | cons x xs ih =>
      intro t n h
      have same : (t.workOutDemand x).store = t.store ∧ (t.workOutDemand x).devices = t.devices := by
        unfold State.workOutDemand
        split <;> exact ⟨rfl, rfl⟩
      have board : (t.workOutDemand x).board = t.board := by simp only [State.board, same.1]
      have hgen : (t.workOutDemand x).sourceEntry n = t.sourceEntry n := by simp only [State.sourceEntry, board]
      have hcl : (t.workOutDemand x).incomerClosed n = t.incomerClosed n := by
        simp only [State.incomerClosed, State.incomerOf, State.incomerSource, State.kindOf, State.entry, board,
          State.device, same.2]
      refine ih (t.workOutDemand x) n ?_
      rcases h with h | h
      · rcases List.mem_cons.1 h with e | e
        · refine Or.inr fun hg hc => ?_
          rw [source_workOutDemand, if_pos e]
          subst e
          exact demanded_demand t n (hgen ▸ hg) (hcl ▸ hc)
        · exact Or.inl e
      · refine Or.inr fun hg hc => ?_
        rw [source_workOutDemand]
        split
        · next e => subst e; exact demanded_demand t n (hgen ▸ hg) (hcl ▸ hc)
        · exact h (hgen ▸ hg) (hcl ▸ hc)
  intro n
  refine key allFours s n (Or.inl ?_)
  match n with
  | 0 => decide
  | 1 => decide
  | 2 => decide
  | 3 => decide

theorem mem_allDevices (d : DevId) : d ∈ allDevices := by
  revert d
  decide

theorem setOwner_device (s : State) (d e : DevId) (o : Owner) :
    (s.setOwner d o).device e = if e = d then { s.device d with owner := o } else s.device e := by
  unfold State.setOwner
  split
  · next h =>
    split
    · next he => subst he; rw [← h]
    · rfl
  · simp [State.device, Sixteen.get_set]

theorem setOwner_store (s : State) (d : DevId) (o : Owner) :
    (s.setOwner d o).store = s.store ∧ (s.setOwner d o).latch = s.latch := by
  unfold State.setOwner
  split <;> exact ⟨rfl, rfl⟩

theorem enqueue_same (s : State) (d : DevId) (c : Cmd) (o : Enqueuer) :
    (s.enqueue d c o).store = s.store ∧ (s.enqueue d c o).latch = s.latch ∧ (s.enqueue d c o).devices = s.devices := by
  unfold State.enqueue
  split <;> exact ⟨rfl, rfl, rfl⟩

theorem Calm.setDevice (s : State) (d : DevId) (x : Device) : Calm s (s.setDevice d x) :=
  .of_parts rfl (fun _ => id) id id id

theorem Calm.setOwner (s : State) (d : DevId) (o : Owner) : Calm s (s.setOwner d o) := by
  unfold State.setOwner
  split
  · exact .refl s
  · exact (Calm.setDevice s d _).trans (Inside.markDirty _ _ (isReport_device d)).toCalm

/-- Taking a device into EMERGENCY ownership keeps everything (R161). -/
theorem Inside.seize (s : State) (d : DevId) : Inside s (s.seize d) := by
  unfold State.seize
  split
  · dsimp only
    have h := (Inside.updDevice s d (fun x => { x with deferred := none }) (fun _ => rfl) fun _ => rfl).trans
      (.setOwner _ d .emergency fun _ => rfl)
    split
    · exact h.trans (.enqueue _ _ _ _)
    · exact h
  · exact .refl s

theorem Calm.matchLatch (s : State) (d : DevId) : Calm s (s.matchLatch d) := by
  unfold State.matchLatch
  split
  · exact .setOwner s d _
  · exact (Inside.seize s d).toCalm

/-- The latch and the store are left by the latch rules of a device. -/
theorem matchLatch_same (s : State) (d : DevId) :
    (s.matchLatch d).store = s.store ∧ (s.matchLatch d).latch = s.latch := by
  unfold State.matchLatch
  split
  · exact setOwner_store s d _
  · unfold State.seize
    split
    · dsimp only
      have h := setOwner_store (s.updDevice d fun x => { x with deferred := none }) d .emergency
      split
      · exact ⟨(enqueue_same _ _ _ _).1.trans h.1, (enqueue_same _ _ _ _).2.1.trans h.2⟩
      · exact ⟨h.1, h.2⟩
    · exact ⟨rfl, rfl⟩

/-- Taking a device into EMERGENCY ownership leaves every owner but its own (R161). -/
theorem seize_owner (s : State) (d e : DevId) (hr : (s.hasRecord e) = true) (he : (s.entry e).emergencyOpen = true)
    (h : e = d ∨ (s.device e).owner = .emergency) : ((s.seize d).device e).owner = .emergency := by
  unfold State.seize
  split
  · dsimp only
    have key : (((s.updDevice d fun x => { x with deferred := none }).setOwner d .emergency).device e).owner
        = .emergency := by
      rw [setOwner_device]
      split
      · rfl
      · next hed =>
        have : ((s.updDevice d fun x => { x with deferred := none }).device e) = s.device e := by
          simp [State.device, Sixteen.get_set, hed]
        rw [this]
        exact h.resolve_left hed
    split
    · rw [State.device, (enqueue_same _ _ _ _).2.2]
      exact key
    · exact key
  · next hc =>
    rcases h with h | h
    · subst h
      simpa [he, hr] using hc
    · exact h

/-- The latch rules of a device: an emergency-open device is owned by EMERGENCY afterwards, and no other device leaves
EMERGENCY. -/
theorem matchLatch_owner (s : State) (d e : DevId) (hr : s.hasRecord e = true) (he : (s.entry e).emergencyOpen = true)
    (h : e = d ∨ (s.device e).owner = .emergency) : ((s.matchLatch d).device e).owner = .emergency := by
  unfold State.matchLatch
  split
  · next hc =>
    rw [setOwner_device]
    split
    · next hed =>
      subst hed
      simp [he] at hc
    · next hed => exact h.resolve_left hed
  · exact seize_owner s d e hr he h

theorem latchHolds_matchLatch (s : State) : (allDevices.foldl State.matchLatch s).latchHolds := by
  have key : ∀ (xs : List DevId) (t : State) (e : DevId), t.hasRecord e = true → (t.entry e).emergencyOpen = true →
      (e ∈ xs ∨ (t.device e).owner = .emergency) →
      ((xs.foldl State.matchLatch t).device e).owner = .emergency := by
    intro xs
    induction xs with
    | nil => intro t e _ _ h; exact h.resolve_left (by simp)
    | cons x xs ih =>
      intro t e hr he h
      have hr' : (t.matchLatch x).hasRecord e = true := (hasRecord_of_store (matchLatch_same t x).1 e).trans hr
      have he' : ((t.matchLatch x).entry e).emergencyOpen = true := by
        simpa only [State.entry, State.board, (matchLatch_same t x).1] using he
      refine ih _ e hr' he' ?_
      rcases h with h | h
      · rcases List.mem_cons.1 h with r | r
        · exact Or.inr (matchLatch_owner t x e hr he (Or.inl r))
        · exact Or.inl r
      · exact Or.inr (matchLatch_owner t x e hr he (Or.inr h))
  have stores : ∀ (xs : List DevId) (t : State), (xs.foldl State.matchLatch t).store = t.store := by
    intro xs
    induction xs with
    | nil => intro t; rfl
    | cons x xs ih => intro t; exact (ih _).trans (matchLatch_same t x).1
  intro _ d hr hd
  refine key allDevices s d ((hasRecord_of_store (stores _ _) d).symm.trans hr) ?_ (Or.inl (mem_allDevices d))
  simpa only [State.entry, State.board, stores] using hd

/-! ## Application (R16 to R18) -/

theorem Inside.trimSection (s : State) (b : SecId) : Inside s (s.trimSection b) := .setSection s b _

theorem Inside.retestQueue (s : State) : Inside s s.retestQueue := by
  unfold State.retestQueue
  refine .foldl (fun s e => ?_) _ s
  split
  · split
    · exact .refl s
    · exact .failTaking Inside.refl e _ s
  · exact .refl s

theorem isReport_application : ∀ off ∈ applicationOffsets, isReportOffset off = true := by decide

/-- An entry that keeps its record has one in the new copy as well (R17). -/
theorem keeps_kind {x y : DeviceEntry} (h : x.keeps y = true) (hx : x.kind ≠ .unused) : y.kind ≠ .unused := by
  intro hy
  simp only [DeviceEntry.keeps, Bool.and_eq_true, beq_iff_eq] at h
  have := h.1.1
  rw [hy] at this
  cases hk : x.kind <;> simp_all [DeviceKind.code]

theorem hasRecord_iff (s : State) (d : DevId) : s.hasRecord d = true ↔ (s.board.devices.get d).kind ≠ .unused := by
  simp only [State.hasRecord, State.kindOf, State.entry]
  cases (s.board.devices.get d).kind <;> simp

/-- The working copy replaced: the structure is kept when the copy is the one that waits. -/
theorem Calm.copyIn (s : State) (m : Memory) (h : s.store.pendingCopy = some m) : Calm s (s.copyIn m) := by
  have kept : ∀ e ∈ (s.copyIn m).injections, e ∈ s.injections ∧
      (s.board.devices.get e.device).keeps ((boardOf m).devices.get e.device) = true := by
    intro e me
    have me' : e ∈ (s.dropInjections fun e =>
        !(s.board.devices.get e.device).keeps ((boardOf m).devices.get e.device)).injections := me
    unfold State.dropInjections at me'
    rw [markAll_eq] at me'
    simpa using List.mem_filter.1 me'
  have one : s.oneInjectionEach → (s.copyIn m).oneInjectionEach := by
    intro x
    refine ⟨((Inside.dropInjections s _).oneInjectionEach x).1, fun e me => ?_⟩
    have k := kept e me
    rw [hasRecord_iff]
    exact keeps_kind k.2 ((hasRecord_iff s e.device).1 (x.2 e k.1))
  have drop := (Inside.dropInjections s fun (e : Injection) =>
    !(s.board.devices.get e.device).keeps ((boardOf m).devices.get e.device)).toCalm
  refine ⟨drop.image, drop.page, drop.staged, drop.pPort, drop.fPort, drop.lastGranted, drop.locks, drop.ms, drop.pins,
    drop.pending, drop.dirty, drop.dirtyOrdered, one, fun x => ?_, fun x => ?_⟩
  · have y := drop.canonical x
    exact ⟨y.1, y.2.1, y.2.2.1, fun m h => by cases h⟩
  · refine ⟨?_, fun m h => by cases h⟩
    have p := drop.page
    show (boardOf m).outside _
    exact (congrArg (boardOf m).outside p).mpr (x.2 m h)

theorem Calm.install (s : State) (m : Memory) (h : s.store.pendingCopy = some m) : Calm s (s.install m) :=
  (Calm.copyIn s m h).trans (Inside.setCommit _ _ _).toCalm

/-- Application of the copy that waits (R16). -/
theorem Inside.applyCopy (s : State) (m : Memory) (h : s.store.pendingCopy = some m) : Inside s (s.applyCopy m) := by
  unfold State.applyCopy
  dsimp only
  have calm1 : Calm s (if (s.install m).latch.isSet = true then allDevices.foldl State.matchLatch (s.install m)
      else s.install m) := by
    refine (Calm.install s m h).trans ?_
    split
    · exact .foldl Calm.matchLatch _ _
    · exact .refl _
  have latch1 : (if (s.install m).latch.isSet = true then allDevices.foldl State.matchLatch (s.install m)
      else s.install m).latchHolds := by
    split
    · exact latchHolds_matchLatch _
    · next hl => exact fun e => absurd e hl
  revert calm1 latch1
  generalize (if (s.install m).latch.isSet = true then allDevices.foldl State.matchLatch (s.install m)
      else s.install m) = t
  intro calm1 latch1
  have trims := Inside.foldl Inside.trimSection allFours t
  have demands := Inside.workOutDemands (allFours.foldl State.trimSection t)
  have met := demandsMet_workOutDemands (allFours.foldl State.trimSection t)
  have latch2 := demands.latchHolds (trims.latchHolds latch1)
  have calm2 := (calm1.trans trims.toCalm).trans demands.toCalm
  revert met latch2 calm2
  generalize (allFours.foldl State.trimSection t).workOutDemands = u
  intro met latch2 calm2
  have rest := ((Inside.evaluate Inside.refl none (allFours.filter fun b => (u.section b).state == .armed) u).trans
    (.retestQueue _)).trans (.markAll _ _ isReport_application)
  exact ⟨calm2.trans rest.toCalm, fun _ => rest.demandsMet met, fun _ => rest.latchHolds latch2⟩

theorem Inside.applyIfFree (s : State) : Inside s s.applyIfFree := by
  unfold State.applyIfFree
  split
  · next m h =>
    split
    · exact .applyCopy s m h
    · exact .refl s
  · exact .refl s

theorem Inside.afterFreeing (s : State) : Inside s s.afterFreeing := (Inside.applyIfFree s).trans (.assign _)

/-! ## The end of an event -/

theorem Inside.watchDead (s : State) (k : CtxId) : Inside s (s.watchDead k) := by
  unfold State.watchDead
  dsimp only
  split
  · split
    · split
      · exact .refl s
      · exact .startTimer s k _ _
    · exact .updContext s k _
  · exact .refl s

theorem Inside.settleFreed (n : Nat) (s : State) : Inside s (Machine.settleFreed n s) := by
  induction n generalizing s with
  | zero => exact .light rfl
  | succ n ih =>
    unfold Machine.settleFreed
    split
    · exact .refl s
    · refine Inside.trans ?_ (ih _)
      refine Inside.trans (t := { s with freed := Three.fill false }) (.light rfl) (.afterFreeing _)

theorem settleFreed_freed (n : Nat) (s : State) : (Machine.settleFreed n s).freed = Three.fill false := by
  induction n generalizing s with
  | zero => rfl
  | succ n ih =>
    unfold Machine.settleFreed
    split
    · next h => exact h
    · exact ih _

/-- Nothing happens to the freed contexts where there are none. -/
theorem settleFreed_settled (n : Nat) (s : State) (h : s.settled) : Machine.settleFreed n s = s := by
  match n with
  | 0 =>
    unfold Machine.settleFreed
    rw [← (h : s.freed = _)]
  | n + 1 =>
    unfold Machine.settleFreed
    exact if_pos h

/-- The end of an event (R34, R117, R126). -/
theorem Inside.finish (s before : State) : Inside s (s.finish before) := by
  unfold State.finish
  exact ((Inside.settleFreed _ s).trans (.foldl Inside.watchDead _ _)).trans (.markChanged _ _)

theorem watchDead_freed (s : State) (k : CtxId) : (s.watchDead k).freed = s.freed := by
  unfold State.watchDead
  dsimp only
  split
  · split
    · split <;> rfl
    · rfl
  · rfl

/-- An event leaves nothing freed to be acted on. -/
theorem finish_settled (s before : State) : (s.finish before).settled := by
  have fold : ∀ (ks : List CtxId) (t : State), (ks.foldl State.watchDead t).freed = t.freed := by
    intro ks
    induction ks with
    | nil => intro t; rfl
    | cons k ks ih => intro t; exact (ih _).trans (watchDead_freed t k)
  unfold State.settled State.finish State.markChanged
  rw [markAll_eq]
  exact (fold _ _).trans (settleFreed_freed _ _)

/-- Marking changes no image. -/
theorem reportImage_markAll (s : State) (offs : List Nat) (off : Nat) :
    (s.markAll offs).reportImage off = s.reportImage off := by
  rw [markAll_eq]
  rfl

/-- The end of an event marks every status word whose image the event has changed (R34). -/
theorem mem_finish_of_changed (s before : State) (off : Nat) (h : off ∈ statusOffsets)
    (hc : (s.finish before).reportImage off ≠ before.reportImage off) : off ∈ (s.finish before).dirty := by
  unfold State.finish State.markChanged at *
  rw [reportImage_markAll] at hc
  rw [mem_markAll]
  refine Or.inr (List.mem_filter.2 ⟨h, ?_⟩)
  simpa [bne_iff_ne] using fun e => hc (Eq.symm e)

end Sys2Proof.Machine
end

