-- ==== Sys2Proof/Laws/InsideTracker.lean ====
section
/-! SUPPORT. What the Device Tracker and the control words can do: each is `Inside`, once the word that a command stores is
stored. -/

namespace Sys2Proof.Machine

/-! ## Commands (R39 to R44) -/

theorem Inside.tell (s : State) (k : Option CtxId) (f : CtxId → State → State) (h : ∀ k s, Inside s (f k s)) :
    Inside s (s.tell k f) := by
  unfold State.tell
  split
  · exact h _ s
  · exact .refl s

theorem Inside.tellOwner (s : State) (d : DevId) (f : CtxId → State → State) (h : ∀ k s, Inside s (f k s)) :
    Inside s (s.tellOwner d f) := .tell s _ f h

theorem Inside.commandReaches (s : State) (d : DevId) (code : Cmd) (tag : BitVec 4) (pending : Bool) :
    Inside s (s.commandReaches d code tag pending) := by
  unfold State.commandReaches
  dsimp only
  refine Inside.trans ?_ (.updDevice _ d _ (fun _ => rfl) fun _ => rfl)
  split
  · exact (Inside.updDevice s d (fun x => { x with overrun := true }) (fun _ => rfl) fun _ => rfl).trans (.raise _ _)
  · exact .refl s

theorem Inside.tellIfObserved (s : State) (k : Option CtxId) (d : DevId) (code : Cmd) :
    Inside s (s.tellIfObserved k d code) := by
  unfold State.tellIfObserved
  split
  · exact .tell s k _ fun k s => .onCompleted .assign k d code s
  · exact .refl s

/-- A processor OPEN: the word is stored, and the rest is inside (R52, R69). -/
theorem Inside.processorOpens (s : State) (d : DevId) (a : Access) :
    Inside (s.storeWord a.addr (commandWord .opn 0 (commandTag a.data))) (s.processorOpens d a) := by
  unfold State.processorOpens
  dsimp only
  refine Inside.trans ?_ (.tellIfObserved _ _ d _)
  refine Inside.trans ?_ (.tellOwner _ d _ fun k s => .onOperatorOpen .assign k d _ s)
  refine Inside.trans ?_ (.updDevice _ d _ (fun _ => rfl) fun _ => rfl)
  exact (Inside.commandReaches _ d _ _ _).trans (.dropInjection _ d)

/-- A processor CLOSE: where the Write Guard passes it the word is stored, and the rest is inside (R69 to R71). -/
theorem Inside.processorCloses (s : State) (d : DevId) (a : Access) :
    (∃ e, s.judge .processorWrite d (some .cls) = .pass e ∧
      Inside (s.storeWord a.addr (commandWord .cls 0 (commandTag a.data))) (s.processorCloses d a)) ∨
    ((∀ e, s.judge .processorWrite d (some .cls) ≠ .pass e) ∧ Inside s (s.processorCloses d a)) := by
  unfold State.processorCloses
  split
  · next e h => exact Or.inl ⟨e, h, (Inside.commandReaches _ d _ _ _).trans (.tellIfObserved _ _ d _)⟩
  · next h =>
    refine Or.inr ⟨fun e g => by simp [h] at g, ?_⟩
    exact (Inside.updDevice s d (fun x => { x with deferred := some a.data }) (fun _ => rfl) fun _ => rfl).trans
      (.raise _ _)
  · next h => exact Or.inr ⟨fun e g => by simp [h] at g, .raise s _⟩

theorem Inside.handOutcome (s : State) (e : Injection) (f : CtxId → State → State) (h : ∀ k s, Inside s (f k s)) :
    Inside s (s.handOutcome e f) := by
  unfold State.handOutcome
  split
  · split
    · exact h _ s
    · exact .refl s
  · exact .refl s

/-- Taking an entry out of the queue and storing a word, in either order. -/
theorem dropInjection_storeWord (s : State) (d : DevId) (a w : Word) :
    (s.dropInjection d).storeWord a w = (s.storeWord a w).dropInjection d := by
  have markStore : ∀ (offs : List Nat) (t : State), (t.markAll offs).storeWord a w = (t.storeWord a w).markAll offs := by
    intro offs
    induction offs with
    | nil => intro t; rfl
    | cons x xs ih => intro t; exact ih _
  unfold State.dropInjection State.dropInjections
  exact markStore _ _

/-- An entry of the injection queue at its grant: where it passes the word is stored, and the rest is inside (R32, R33). -/
theorem Inside.carryInjection (s : State) (e : Injection) (scanner : Bool) :
    (∃ x, s.judge (.injection e.owner) e.device (some e.code) = .pass x ∧
      Inside (s.storeWord (s.entry e.device).command (commandWord e.code 1 e.tag)) (s.carryInjection e scanner)) ∨
    ((∀ x, s.judge (.injection e.owner) e.device (some e.code) ≠ .pass x) ∧ Inside s (s.carryInjection e scanner)) := by
  unfold State.carryInjection
  dsimp only
  split
  · next x h =>
    refine Or.inl ⟨x, h, ?_⟩
    rw [dropInjection_storeWord]
    refine Inside.trans ?_ (.tellIfObserved _ _ _ _)
    refine Inside.trans ?_ (.handOutcome _ _ _ fun k s => .onReached k _ _ s)
    have h1 := (Inside.dropInjection (s.storeWord (s.entry e.device).command (commandWord e.code 1 e.tag)) e.device).trans
      (.commandReaches _ e.device e.code e.tag (!scanner))
    split
    · exact h1.trans (.releaseSync _)
    · exact h1
  · next r h =>
    refine Or.inr ⟨fun x g => by simp [h] at g, ?_⟩
    refine Inside.trans ?_ (.handOutcome _ _ _ fun k s => .onRefused .assign k _ s)
    have h1 := (Inside.dropInjection s e.device).trans (.raise _ (s.refusedInjection e r))
    split
    · exact h1.trans (.updDevice _ _ _ (fun _ => rfl) fun _ => rfl)
    · exact h1
  · next h => exact Or.inr ⟨fun x g => by simp [h] at g, .refl s⟩

/-- The operate deadline (R44). -/
theorem Inside.missDeadline (s : State) (d : DevId) (code : Cmd) : Inside s (s.missDeadline d code) := by
  unfold State.missDeadline
  dsimp only
  refine Inside.trans ?_ (.tellOwner _ d _ fun k s => .onFailed .assign k d code s)
  exact (Inside.updDevice s d (fun x => { x with fail := true, op := .idle }) (fun _ => rfl) fun _ => rfl).trans
    (.raise _ _)

/-! ## Trips and position words (R45, R46, R104) -/

theorem Inside.lockOut (unfed : FourSet) (s : State) (b : SecId) : Inside s (State.lockOut unfed s b) := by
  unfold State.lockOut
  split
  · exact .refl s
  · split
    · exact ((Inside.removeRequest s _).trans (.setSectionStates _ _ _)).trans (.setSectionState _ b _)
    · exact .setSectionState s b _
  · exact .setSectionState s b _
  · exact .setSectionState s b _
  · exact .setSectionState s b _
  · exact .setSectionState s b _

theorem Inside.dispatchTrip (s : State) (d : DevId) (slot : Slot) : Inside s (s.dispatchTrip d slot) := by
  unfold State.dispatchTrip
  dsimp only
  split
  · exact (Inside.tellEach s _ (Inside.onTrip .assign d _)).trans (.evaluate .assign _ _ _)
  · exact (Inside.foldl (Inside.lockOut _) _ s).trans (.tellEach _ _ (Inside.onTrip .assign d _))

theorem Inside.positionEffects (s : State) (d : DevId) (p : Position) : Inside s (s.positionEffects d p) := by
  unfold State.positionEffects
  split
  · refine .foldl (fun s b => ?_) allFours s
    dsimp only
    split
    · exact .setSection s b _
    · exact .refl s
  · exact .setSection s _ _
  · exact .refl s

/-- A device's record changed with its owner kept: everything is kept but, where the position changes, run demand. -/
theorem setDevice_calm_latch (s : State) (d : DevId) (x : Device) (h : x.owner = (s.device d).owner) :
    Calm s (s.setDevice d x) ∧ (s.latchHolds → (s.setDevice d x).latchHolds) := by
  refine ⟨.setDevice s d x, fun g hl e hr he => ?_⟩
  have := g hl e hr he
  simp only [State.device, State.setDevice_devices, Sixteen.get_set]
  split
  · next hed => rw [h, ← hed]; exact this
  · exact this

/-- A position word taken (R45): everything is kept, run demand worked out afresh where the position changes. -/
theorem Inside.takePosition (s : State) (d : DevId) (w : Word) : Inside s (s.takePosition d w) := by
  unfold State.takePosition
  dsimp only
  split
  · exact .refl s
  · have start : Inside s (if ((s.device d).observed != ((s.device d).report w).observed) = true
        then ((s.setDevice d ((s.device d).report w)).positionEffects d ((s.device d).report w).observed).workOutDemands
        else s.setDevice d ((s.device d).report w)) := by
      split
      · have h := setDevice_calm_latch s d ((s.device d).report w) rfl
        have e := Inside.positionEffects (s.setDevice d ((s.device d).report w)) d ((s.device d).report w).observed
        have g := Inside.workOutDemands
          ((s.setDevice d ((s.device d).report w)).positionEffects d ((s.device d).report w).observed)
        exact ⟨(h.1.trans e.toCalm).trans g.toCalm, fun _ => demandsMet_workOutDemands _,
          fun l => g.latchHolds (e.latchHolds (h.2 l))⟩
      · next hm =>
        refine .setDevice s d _ ?_ id
        simpa using Eq.symm (by simpa using hm : (s.device d).observed = ((s.device d).report w).observed)
    revert start
    generalize (if ((s.device d).observed != ((s.device d).report w).observed) = true
        then ((s.setDevice d ((s.device d).report w)).positionEffects d ((s.device d).report w).observed).workOutDemands
        else s.setDevice d ((s.device d).report w)) = t
    intro start
    have raised : Inside s (if (((s.device d).report w).tripped && !(s.device d).tripped) = true
        then t.raise (t.deviceIncident .protectionTrip d) else t) := by
      split
      · exact start.trans (.raise _ _)
      · exact start
    revert raised
    generalize (if (((s.device d).report w).tripped && !(s.device d).tripped) = true
        then t.raise (t.deviceIncident .protectionTrip d) else t) = u
    intro raised
    have handled : Inside s (if (((s.device d).report w).tripped && !(s.device d).tripped && (s.kindOf d).tripsBoard) = true
        then u.dispatchTrip d s.recorder.index else u) := by
      split
      · exact raised.trans (.dispatchTrip _ d _)
      · exact raised
    have told := fun was closed rose => handled.trans
      (.tell _ (s.ownerContext d) _ fun k s => .onPosition .assign k d was closed rose s)
    split
    · exact (told _ _ _).trans (.tell _ _ _ fun k s => .onCompleted .assign k d _ s)
    · exact told _ _ _

end Sys2Proof.Machine
end

