-- ==== Sys2Proof/Laws/InsideRows.lean ====
section
/-! SUPPORT. What the control words, the Source Monitor, the Sync Selector and the Emergency Latch can do: each is
`Inside`. -/

namespace Sys2Proof.Machine

/-! ## Validation (R15) -/

/-- A word below 094h of a copy that validates passes its checks. -/
theorem wordFails_of_valid {page : BitVec 4} {m : Memory} (h : firstFailure page m = none) {off : Nat} (ho : off < 0x94) :
    wordFails page m off = false := by
  have := List.find?_eq_none.1 h off (List.mem_range.2 ho)
  simpa using this

theorem deviceWordFails_of_valid {page : BitVec 4} {m : Memory} (h : firstFailure page m = none) (d : DevId) (i : Nat)
    (hi : i < 5) : deviceWordFails page m d i = false := by
  have hd := d.isLt
  have := wordFails_of_valid h (off := 5 * d.val + i) (by omega)
  unfold wordFails at this
  rw [dif_pos (by omega)] at this
  have e1 : (⟨(5 * d.val + i) / 5, by omega⟩ : DevId) = d := Fin.ext (by show (5 * d.val + i) / 5 = d.val; omega)
  have e2 : (5 * d.val + i) % 5 = i := by omega
  rwa [e1, e2] at this

theorem kind_unused_of_raw {m : Memory} {d : DevId} (h : rawKind m d = 0) : (deviceEntryOf m d).kind = .unused := by
  have : deviceKindOf (m.read (deviceOffset d)) = .unused := by
    unfold deviceKindOf
    have h' : field (m.read (deviceOffset d)) 0 2 = 0 := h
    simp [h']
  simp [deviceEntryOf, this, DeviceEntry.blank]

/-- The addresses of a used entry. -/
theorem deviceEntryOf_addresses (m : Memory) (d : DevId) (h : (deviceEntryOf m d).kind ≠ .unused) :
    (deviceEntryOf m d).command = rawCommand m d ∧ (deviceEntryOf m d).position = rawPosition m d := by
  unfold deviceEntryOf at *
  dsimp only at *
  split at h
  · exact absurd rfl h
  · exact ⟨rfl, rfl⟩

/-- The addresses of an entry are no address of a used entry at a lower offset (R15). -/
theorem apart_of_valid {page : BitVec 4} {m : Memory} (h : firstFailure page m = none) {d e : DevId} (hd : rawKind m d ≠ 0)
    (he : rawKind m e ≠ 0) (lt : e < d) :
    (rawCommand m e ≠ rawCommand m d ∧ rawPosition m e ≠ rawCommand m d) ∧
      (rawCommand m e ≠ rawPosition m d ∧ rawPosition m e ≠ rawPosition m d) := by
  have h1 := deviceWordFails_of_valid h d 1 (by omega)
  have h2 := deviceWordFails_of_valid h d 2 (by omega)
  simp only [deviceWordFails, bne_iff_ne.2 hd, Bool.true_and, Bool.or_eq_false_iff, addressTaken] at h1 h2
  have mem : e ∈ lowerDevices d := List.mem_filter.2 ⟨mem_allDevices e, by simpa using lt⟩
  have a := List.any_eq_false.1 h1.2 e mem
  have b := List.any_eq_false.1 h2.1.2 e mem
  simp only [bne_iff_ne.2 he, Bool.true_and, Bool.or_eq_true, beq_iff_eq, not_or] at a b
  exact ⟨a, b⟩

/-- A copy that validates keeps its device words outside the guard page, and apart (R15). -/
theorem outside_of_valid {page : BitVec 4} {m : Memory} (h : firstFailure page m = none) : (boardOf m).outside page := by
  intro d hd
  have entry : (boardOf m).devices.get d = deviceEntryOf m d := by simp [boardOf]
  rw [entry] at hd ⊢
  have raw : ∀ e, (deviceEntryOf m e).kind ≠ .unused → rawKind m e ≠ 0 := fun e he z => he (kind_unused_of_raw z)
  have hk := raw d hd
  have a := deviceEntryOf_addresses m d hd
  have h1 := deviceWordFails_of_valid h d 1 (by omega)
  have h2 := deviceWordFails_of_valid h d 2 (by omega)
  simp only [deviceWordFails, bne_iff_ne.2 hk, Bool.true_and, Bool.or_eq_false_iff, addressTaken] at h1 h2
  refine ⟨by rw [a.1]; exact h1.1, by rw [a.2]; exact h2.1.1, fun e he => ?_⟩
  have entry' : (boardOf m).devices.get e = deviceEntryOf m e := by simp [boardOf]
  rw [entry'] at he ⊢
  have b := deviceEntryOf_addresses m e he
  rw [a.1, a.2, b.1, b.2]
  rcases Nat.lt_trichotomy d.val e.val with lt | eq | gt
  · have r := apart_of_valid h (raw e he) hk lt
    exact ⟨r.2.1, fun _ => ⟨r.1.1, r.2.2⟩⟩
  · have ed : d = e := Fin.ext eq
    subst ed
    exact ⟨fun q => by simpa [q] using h2.2, fun ne => absurd rfl ne⟩
  · have r := apart_of_valid h hk (raw e he) gt
    exact ⟨r.1.2.symm, fun _ => ⟨r.1.1.symm, r.2.2.symm⟩⟩

/-! ## Control words -/

theorem Inside.commit (s : State) : Inside s s.commit := by
  unfold State.commit
  split
  · exact (Inside.setCommit s _ _).trans (.raise _ _)
  · next h =>
    refine Inside.trans (Inside.trans ?_ (.setCommit _ _ _)) (.afterFreeing _)
    refine ⟨⟨rfl, rfl, rfl, rfl, rfl, rfl, rfl, rfl, rfl, rfl, fun _ => id, id, id, fun x => ?_, fun x => ?_⟩, id, id⟩
    · refine ⟨x.1, x.2.1, x.2.2.1, fun m e => ?_⟩
      cases e
      exact x.2.1
    · refine ⟨x.1, fun m e => ?_⟩
      cases e
      exact outside_of_valid h

theorem freeDevice_owner (x : Device) (h : x.owner = .emergency) : (freeDevice x).owner = .emergency := by
  unfold freeDevice
  split
  · next e => rw [h] at e; cases e
  · exact h
  · exact h

theorem freeDevice_observed (x : Device) : (freeDevice x).observed = x.observed := by
  unfold freeDevice
  split <;> rfl

theorem Inside.restartBlocks (s : State) : Inside s s.restartBlocks := by
  refine .of_parts rfl (fun _ => id) id id id (fun d => ?_) (fun _ => id) rfl (fun d h => ?_)
  · simp only [State.device, State.restartBlocks, Sixteen.get_ofFn]
    exact freeDevice_observed _
  · simp only [State.device, State.restartBlocks, Sixteen.get_ofFn]
    exact freeDevice_owner _ h

theorem Inside.restart (s : State) : Inside s s.restart := by
  unfold State.restart
  dsimp only
  refine Inside.trans ?_ (.markAll _ _ fun off m => ?_)
  · split
    · exact ((Inside.restartBlocks s).trans (.workOutDemands _)).trans (.afterFreeing _)
    · exact .refl s
  · rcases List.mem_append.1 m with h | h
    · exact isReport_status h
    · exact isReport_frame h

theorem Inside.eopClear (s : State) : Inside s s.eopClear := by
  unfold State.eopClear
  split
  · refine Inside.trans ?_ (.assign _)
    have calm : ∀ (xs : List DevId) (t : State), Calm t (xs.foldl State.leaveEmergency t) ∧
        (t.demandsMet → (xs.foldl State.leaveEmergency t).demandsMet) ∧
        (xs.foldl State.leaveEmergency t).latch = t.latch := by
      intro xs
      induction xs with
      | nil => intro t; exact ⟨.refl t, id, rfl⟩
      | cons x xs ih =>
        intro t
        have one : Calm t (t.leaveEmergency x) ∧ (t.demandsMet → (t.leaveEmergency x).demandsMet) ∧
            (t.leaveEmergency x).latch = t.latch := by
          unfold State.leaveEmergency
          split
          · refine ⟨.setOwner t x _, fun g n hg hc => ?_, (setOwner_store t x _).2⟩
            have board : (t.setOwner x .processor).board = t.board := by
              simp only [State.board, (setOwner_store t x _).1]
            have obs : ∀ d, ((t.setOwner x .processor).device d).observed = (t.device d).observed := fun d => by
              rw [setOwner_device]
              split
              · next e => rw [e]
              · rfl
            have src : (t.setOwner x .processor).sources = t.sources := by
              unfold State.setOwner
              split <;> rfl
            have := g n (by simpa only [State.sourceEntry, board] using hg) (by
              simpa only [State.incomerClosed, State.incomerOf, State.incomerSource, State.kindOf, State.entry, board,
                obs] using hc)
            simpa only [State.source, src] using this
          · exact ⟨.refl t, id, rfl⟩
        have rest := ih (t.leaveEmergency x)
        exact ⟨one.1.trans rest.1, fun g => rest.2.1 (one.2.1 g), rest.2.2.trans one.2.2⟩
    have start : Calm s { s with latch := { s.latch with isSet := false } } :=
      ⟨rfl, rfl, rfl, rfl, rfl, rfl, rfl, rfl, rfl, rfl, fun _ => id, id, id, id, id⟩
    have met : s.demandsMet → ({ s with latch := { s.latch with isSet := false } } : State).demandsMet := id
    have open' : ({ s with latch := { s.latch with isSet := false } } : State).latch.isSet = false := rfl
    dsimp only
    revert start met open'
    generalize ({ s with latch := { s.latch with isSet := false } } : State) = t
    intro start met open'
    have h := calm allDevices t
    refine ⟨start.trans h.1, fun g => h.2.1 (met g), fun _ e => ?_⟩
    have e' : (allDevices.foldl State.leaveEmergency t).latch.isSet = true := e
    rw [h.2.2, open'] at e'
    cases e'
  · exact .refl s

/-- An event with its end. -/
theorem Inside.event (s : State) (b : Bool) {f : State → State} (h : Inside s (f s)) : Inside s (s.event b f) := by
  unfold State.event
  split
  · exact h.trans (.finish _ _)
  · exact .refl s

theorem Inside.generalControl (s : State) (w : Word) : Inside s (s.generalControl w) :=
  ((Inside.event s _ (.commit s)).trans (.event _ _ (.restart _))).trans (.event _ _ (.eopClear _))

theorem Inside.armOne (a : Access) (s : State) (b : SecId) : Inside s (State.armOne a s b) := by
  unfold State.armOne
  split
  · exact .raise s _
  · split
    · split
      · exact .setSectionState s b _
      · exact .raise s _
    · exact .refl s

theorem Inside.arm (s : State) (a : Access) : Inside s (s.arm a) :=
  (Inside.foldl (Inside.armOne a) _ s).trans (.evaluate .assign _ _ _)

theorem Inside.disarmOne (w : Word) (s : State) (b : SecId) : Inside s (State.disarmOne w s b) := by
  unfold State.disarmOne
  split
  · exact .setSectionState s b _
  · exact .setSectionState s b _
  · split
    · exact ((Inside.removeRequest s _).trans (.setSectionStates _ _ _)).trans (.setSectionState _ b _)
    · exact .setSectionState s b _
  · split
    · exact .onDisarm .assign _ _ s
    · exact .refl s
  · exact .refl s
  · exact .refl s

theorem Inside.disarm (s : State) (w : Word) : Inside s (s.disarm w) := by
  unfold State.disarm
  dsimp only
  split
  · exact (Inside.foldl (Inside.disarmOne w) _ s).trans (.evaluate .assign _ _ _)
  · exact .refl s

theorem Inside.releaseSections (s : State) (w : Word) : Inside s (s.releaseSections w) := by
  unfold State.releaseSections
  split
  · refine .foldl (fun s b => ?_) _ s
    unfold State.releaseOne
    split
    · exact .setSectionState s b _
    · exact .refl s
  · exact .refl s

theorem Inside.manual (s : State) (b : SecId) (a : Access) : Inside s (s.manual b a) := by
  unfold State.manual
  split
  · split
    · exact .raise s _
    · exact .placeManual .assign _ s
  · exact .refl s

/-! ## Report words (R28, R173) -/

theorem Inside.clearAttention (s : State) (w : Word) : Inside s (s.clearAttention w) := .setRecorder s _ id

theorem Inside.clearFlags (s : State) (d : DevId) (w : Word) : Inside s (s.clearFlags d w) :=
  .updDevice s d _ (fun _ => rfl) fun _ => rfl

theorem Inside.slotWritten (s : State) (off : Nat) : Inside s (s.slotWritten off) := by
  unfold State.slotWritten
  split
  · exact .refl s
  · split
    · split
      · exact .refl s
      · exact ((Inside.freeContext s _).trans (.clearMark _ _)).trans (.afterFreeing _)
    · exact .refl s

/-! ## Sources and locks (R78 to R83, R98) -/

theorem Inside.tellLost (s : State) (n : SrcId) : Inside s (s.tellLost n) :=
  .tellEach s _ (Inside.onSourceLost .assign n)

theorem Inside.healthFalls (s : State) (n : SrcId) : Inside s (s.healthFalls n) := by
  unfold State.healthFalls
  dsimp only
  have h := Inside.updSource s n (fun x => { x with health := x.health.turn }) fun _ => rfl
  split
  · exact h.trans (.updSource _ n _ fun _ => rfl)
  · exact (h.trans (.updSource _ n (fun x => { x with state := .failed, stab := none }) fun _ => rfl)).trans (.tellLost _ n)
  · exact h
  · exact h

theorem Inside.healthRises (s : State) (n : SrcId) : Inside s (s.healthRises n) := by
  unfold State.healthRises
  dsimp only
  have h := Inside.updSource s n (fun x => { x with health := x.health.turn }) fun _ => rfl
  split
  · exact h.trans (.updSource _ n _ fun _ => rfl)
  · exact (h.trans (.updSource _ n (fun x => { x with state := .available, ride := none }) fun _ => rfl)).trans (.raise _ _)
  · exact h
  · exact h

theorem Inside.rideExpires (s : State) (n : SrcId) : Inside s (s.rideExpires n) := by
  unfold State.rideExpires
  dsimp only
  have h := ((Inside.updSource s n (fun x => { x with state := .failed, ride := none }) fun _ => rfl).trans
    (.raise _ (s.sourceIncident .sourceLoss n 0))).trans (.tellLost _ n)
  split
  · exact h.trans (.evaluate .assign _ _ _)
  · exact h

theorem Inside.stabilityExpires (s : State) (n : SrcId) : Inside s (s.stabilityExpires n) := by
  unfold State.stabilityExpires
  dsimp only
  have h := fun who => ((Inside.updSource s n (fun x => { x with state := .available, stab := none }) fun _ => rfl).trans
    (.raise _ (s.sourceIncident .sourceReturn n 0))).trans
    (.tellEach _ who (Inside.onSourceReturned .assign))
  split
  · exact (h _).trans (.foldl (fun s b => .evaluateReturn .assign b _ s) _ _)
  · exact h _

/-- A filtered lock level turned changes the lock filters and nothing else. -/
theorem turnLock_eq (s : State) (b : SecId) :
    s.turnLock b = { s with locks := s.locks.set b (s.locks.get b).turn } := rfl

/-- A lock rise: the level turns, and the rest is inside. -/
theorem Inside.lockRises (s : State) (b : SecId) : Inside (s.turnLock b) (s.lockRises b) := by
  unfold State.lockRises
  dsimp only
  split
  · exact .evaluate .assign _ _ _
  · split
    · exact .withdrawHeld _ _
    · exact .refl _
  · split
    · exact .onLock .assign _ _
    · exact .refl _
  · exact .refl _
  · exact .refl _
  · exact .refl _

/-! ## Timers -/

theorem Inside.stopTimer (s : State) (k : CtxId) : Inside s (s.stopTimer k) := .updContext s k _

theorem Inside.startLimitExpires (s : State) (k : CtxId) : Inside s (s.startLimitExpires k) :=
  ((Inside.stopTimer s k).trans (.updContext _ k _)).trans (.enterSelect .assign k _)

/-! ## The selector (R130 to R136) -/

theorem Inside.changeHold (s : State) (old new : SyncHold) : Inside s (s.changeHold old new) := by
  unfold State.changeHold
  dsimp only
  have h : Inside s { s with sync := { s.sync with hold := some new } } := .light rfl
  split
  · exact h.trans (.onLeave .assign _ _ _)
  · exact h

theorem Inside.windowExpires (s : State) (h : SyncHold) : Inside s (s.windowExpires h) :=
  ((Inside.raise s _).trans (.releaseSync _)).trans (.onTimeout .assign _ _)

theorem Inside.grantHead (n : Nat) (s : State) : Inside s (Machine.grantHead n s) := by
  induction n generalizing s with
  | zero => exact .refl s
  | succ n ih =>
    unfold Machine.grantHead
    split
    · exact .refl s
    · next k ks h =>
      split
      · dsimp only
        split
        · exact .light rfl
        · refine Inside.trans ?_ (ih _)
          refine Inside.trans ?_ (.returnToSelect .assign k _ _ _)
          exact .light rfl
      · exact .refl s

/-! ## The latch (R159 to R163) -/

theorem Inside.clearSync (s : State) : Inside s s.clearSync := by
  unfold State.clearSync
  dsimp only
  refine Inside.trans (t := s.releaseSync.sync.claims.foldl
    (fun s k => s.updContext k fun c => { c with claim := .none }) s.releaseSync) ?_ (.light rfl)
  exact (Inside.releaseSync s).trans (.foldl (fun s k => .updContext s k _) _ _)

theorem Inside.endEmergency (s : State) (k : CtxId) : Inside s (s.endEmergency k) := by
  unfold State.endEmergency
  split
  · exact .endContext .assign k _ _ s
  · exact .refl s

theorem Inside.disarmAll (s : State) : Inside s s.disarmAll := (Inside.setQueue s _).trans (.setSectionStates _ _ _)

theorem seize_same (s : State) (d : DevId) : (s.seize d).store = s.store ∧ (s.seize d).latch = s.latch := by
  unfold State.seize
  split
  · dsimp only
    have h := setOwner_store (s.updDevice d fun x => { x with deferred := none }) d .emergency
    split
    · exact ⟨(enqueue_same _ _ _ _).1.trans h.1, (enqueue_same _ _ _ _).2.1.trans h.2⟩
    · exact ⟨h.1, h.2⟩
  · exact ⟨rfl, rfl⟩

theorem latchHolds_seize (s : State) : (allDevices.foldl State.seize s).latchHolds := by
  have key : ∀ (xs : List DevId) (t : State) (e : DevId), t.hasRecord e = true → (t.entry e).emergencyOpen = true →
      (e ∈ xs ∨ (t.device e).owner = .emergency) → ((xs.foldl State.seize t).device e).owner = .emergency := by
    intro xs
    induction xs with
    | nil => intro t e _ _ h; exact h.resolve_left (by simp)
    | cons x xs ih =>
      intro t e hr he h
      have hr' : (t.seize x).hasRecord e = true := (hasRecord_of_store (seize_same t x).1 e).trans hr
      have he' : ((t.seize x).entry e).emergencyOpen = true := by
        simpa only [State.entry, State.board, (seize_same t x).1] using he
      refine ih _ e hr' he' ?_
      rcases h with h | h
      · rcases List.mem_cons.1 h with r | r
        · exact Or.inr (seize_owner t x e hr he (Or.inl r))
        · exact Or.inl r
      · exact Or.inr (seize_owner t x e hr he (Or.inr h))
  have stores : ∀ (xs : List DevId) (t : State), (xs.foldl State.seize t).store = t.store := by
    intro xs
    induction xs with
    | nil => intro t; rfl
    | cons x xs ih => intro t; exact (ih _).trans (seize_same t x).1
  intro _ d hr hd
  refine key allDevices s d ((hasRecord_of_store (stores _ _) d).symm.trans hr) ?_ (Or.inl (mem_allDevices d))
  simpa only [State.entry, State.board, stores] using hd

/-- Setting the latch (R160): the emergency-open devices are EMERGENCY's afterwards. -/
theorem Inside.setLatch (s : State) : Inside s s.setLatch := by
  unfold State.setLatch
  dsimp only
  have start : Calm s { s with latch := { s.latch with isSet := true } } :=
    ⟨rfl, rfl, rfl, rfl, rfl, rfl, rfl, rfl, rfl, rfl, fun _ => id, id, id, id, id⟩
  have met : s.demandsMet → ({ s with latch := { s.latch with isSet := true } } : State).demandsMet := id
  revert start met
  generalize ({ s with latch := { s.latch with isSet := true } } : State) = t
  intro start met
  have before := (Inside.raise t { cls := .emergency }).trans (.clearSync _)
  have taken := Inside.foldl Inside.seize allDevices (t.raise { cls := .emergency }).clearSync
  have held := latchHolds_seize (t.raise { cls := .emergency }).clearSync
  have rest := (Inside.foldl Inside.endEmergency allContexts
    (allDevices.foldl State.seize (t.raise { cls := .emergency }).clearSync)).trans (.disarmAll _)
  exact ⟨((start.trans before.toCalm).trans taken.toCalm).trans rest.toCalm,
    fun h => rest.demandsMet (taken.demandsMet (before.demandsMet (met h))), fun _ => rest.latchHolds held⟩

theorem Inside.eopChanges (s : State) : Inside s s.eopChanges := by
  unfold State.eopChanges
  dsimp only
  have h : Inside s { s with latch := { s.latch with filter := s.latch.filter.turn } } := .light rfl
  split
  · exact h.trans (.setLatch _)
  · exact h

end Sys2Proof.Machine
end

