-- ==== Sys2Proof/Laws/Rows.lean ====
section
/-! SUPPORT. The parts that the rows are made of keep the invariant: the ports, a store beside the status words, an event
with its end, a report word stored, a tick's samples. -/

namespace Sys2Proof.Machine

/-! ## The ports -/

/-- Ports and arbiter changed, and nothing else. -/
def PortsOnly (s t : State) : Prop :=
  ∃ p f l, t = { s with pPort := p, fPort := f, lastGranted := l }

theorem PortsOnly.refl (s : State) : PortsOnly s s := ⟨_, _, _, rfl⟩

theorem PortsOnly.trans {s t u : State} (h : PortsOnly s t) (g : PortsOnly t u) : PortsOnly s u := by
  obtain ⟨p, f, l, rfl⟩ := h
  obtain ⟨p', f', l', rfl⟩ := g
  exact ⟨p', f', l', rfl⟩

theorem portsOnly_setPort (s : State) (q : PortId) (x : Port) : PortsOnly s (s.setPort q x) := by
  cases q
  · exact ⟨x, s.fPort, s.lastGranted, rfl⟩
  · exact ⟨s.pPort, x, s.lastGranted, rfl⟩

theorem portsOnly_endAccess (s : State) (q : PortId) : PortsOnly s (s.endAccess q) := by
  cases q
  · exact ⟨_, s.fPort, _, rfl⟩
  · exact ⟨s.pPort, _, _, rfl⟩

theorem portsOnly_endRead (s : State) (q : PortId) (w : Word) : PortsOnly s (s.endRead q w) := by
  cases q
  · exact ⟨_, s.fPort, _, rfl⟩
  · exact ⟨s.pPort, _, _, rfl⟩

theorem portsOnly_serveRead (s : State) : PortsOnly s s.serveRead := by
  unfold State.serveRead
  split
  · split
    · split
      · exact portsOnly_endRead _ _ _
      · exact .refl s
    · exact .refl s
  · exact .refl s

/-- The plain reads ahead of a grant change the ports and the arbiter only (R24). -/
theorem portsOnly_serveReads (s : State) : PortsOnly s s.serveReads :=
  (portsOnly_serveRead s).trans (portsOnly_serveRead _)

theorem portsOnly_granted (s : State) (q : PortId) : PortsOnly s (s.granted q) :=
  (portsOnly_serveReads s).trans (portsOnly_endAccess _ q)

/-- The images do not depend on the ports. -/
theorem PortsOnly.inv {s t : State} (h : PortsOnly s t) (i : s.Inv) : t.Inv := by
  obtain ⟨p, f, l, rfl⟩ := h
  exact ⟨⟨i.sound.dirtyOrdered, i.sound.oneInjectionEach, i.sound.canonical, i.sound.addressesOutside,
    i.sound.demandsMet, i.sound.latchHolds⟩, i.settled, i.statusCurrent⟩

/-! ## Events -/

/-- A first change of an event that leaves the status words in memory and the dirty set. -/
structure Beside (s u : State) : Prop where
  page : u.store.page = s.store.page
  dirty : u.dirty = s.dirty
  words : ∀ off ∈ statusOffsets,
    u.image.read (guardAddress s.store.page off).toNat = s.image.read (guardAddress s.store.page off).toNat
  sound : s.Sound → u.Sound

theorem Beside.refl (s : State) : Beside s s := ⟨rfl, rfl, fun _ _ => rfl, id⟩

/-- A store to a word that is no status word. -/
theorem Beside.storeWord (s : State) (a w : Word) (hw : s.image.wf = true)
    (h : ∀ off ∈ statusOffsets, guardAddress s.store.page off ≠ a) : Beside s (s.storeWord a w) := by
  refine ⟨rfl, rfl, fun off m => ?_, fun x => ?_⟩
  · rw [State.storeWord_image, Memory.read_write _ _ _ _ hw, if_neg]
    exact fun e => h off m (BitVec.eq_of_toNat_eq e)
  · have c := x.canonical
    exact ⟨x.dirtyOrdered, x.oneInjectionEach, ⟨Memory.wf_write _ _ _ c.1, c.2.1, c.2.2.1, c.2.2.2⟩, x.addressesOutside,
      x.demandsMet, x.latchHolds⟩

/-- A turn of a lock filter. -/
theorem Beside.turnLock (s : State) (b : SecId) : Beside s (s.turnLock b) :=
  ⟨rfl, rfl, fun _ _ => rfl, fun x =>
    ⟨x.dirtyOrdered, x.oneInjectionEach, x.canonical, x.addressesOutside, x.demandsMet, x.latchHolds⟩⟩

/-- An event: a first change beside the status words, what the blocks do, and the end of the event. It keeps the
invariant. -/
theorem State.Inv.event {s u v : State} (i : s.Inv) (h : Beside s u) (g : Inside u v) : (v.finish s).Inv := by
  have f := Inside.finish v s
  refine ⟨f.sound (g.sound (h.sound i.sound)), finish_settled v s, fun off mem nd => ?_⟩
  have page : (v.finish s).store.page = s.store.page := (f.page.trans g.page).trans h.page
  have image : (v.finish s).image = u.image := f.image.trans g.image
  have clean : off ∉ s.dirty := fun d => nd (f.dirty off (g.dirty off (h.dirty ▸ d)))
  have report : (v.finish s).reportImage off = s.reportImage off :=
    Classical.byContradiction fun ne => nd (mem_finish_of_changed v s off mem ne)
  rw [State.readImage, page, image, report, h.words off mem]
  exact i.statusCurrent off mem clean

/-- An event that is due keeps the invariant; so does one that is not. -/
theorem State.Inv.due {s : State} (i : s.Inv) (b : Bool) {f : State → State} (h : Inside s (f s)) : (s.event b f).Inv := by
  unfold State.event
  split
  · exact i.event (.refl s) h
  · exact i

/-- A general control write, each of its bits an event of its own (R27). -/
theorem State.Inv.generalControl {s : State} (i : s.Inv) (w : Word) : (s.generalControl w).Inv :=
  ((i.due _ (.commit s)).due _ (.restart _)).due _ (.eopClear _)

/-! ## Grants -/

/-- A grant leaves the state as it was, or is the grant of the access that the port holds. -/
theorem grant_cases (s : State) (q : PortId) (f : Access → State → Option State) :
    s.grant q f = s ∨ ∃ a t, (s.serveReads.port q).access = some a ∧ s.serveReads.nextPort = some q ∧
      f a s.serveReads = some t ∧ s.grant q f = t := by
  unfold State.grant
  dsimp only
  split
  · next a ha =>
    split
    · next hn =>
      cases hf : f a s.serveReads with
      | none => exact Or.inl rfl
      | some t => exact Or.inr ⟨a, t, ha, hn, hf, rfl⟩
    · exact Or.inl rfl
  · exact Or.inl rfl

/-- The same of a write. -/
theorem grantWrite_cases (s : State) (q : PortId) (f : Access → State → Option State) :
    s.grantWrite q f = s ∨ ∃ a t, s.grantsWrite q a ∧ f a (s.granted q) = some t ∧ s.grantWrite q f = t := by
  rcases grant_cases s q (fun a t =>
    match a.dir with
    | .write => f a (t.endAccess q)
    | .read => none) with h | ⟨a, t, ha, hn, hf, h⟩
  · exact Or.inl h
  · refine Or.inr ⟨a, t, ?_⟩
    cases hd : a.dir with
    | read => rw [hd] at hf; cases hf
    | write => rw [hd] at hf; exact ⟨⟨hn, ha, hd⟩, hf, h⟩

/-- A write that the arbiter grants is carried out. -/
theorem grantWrite_of (s : State) (q : PortId) (a : Access) (f : Access → State → Option State) (h : s.grantsWrite q a) :
    s.grantWrite q f = (f a (s.granted q)).getD s := by
  unfold State.grantWrite State.grant
  dsimp only
  rw [h.2.1]
  dsimp only
  rw [if_pos h.1, h.2.2]
  rfl

/-- A grant of a write keeps the invariant when what it does keeps it. -/
theorem State.Inv.grantWrite {s : State} (i : s.Inv) (q : PortId) {f : Access → State → Option State}
    (h : ∀ a t u, t.Inv → f a t = some u → u.Inv) : (s.grantWrite q f).Inv := by
  rcases grantWrite_cases s q f with e | ⟨a, t, _, hf, e⟩
  · rw [e]; exact i
  · rw [e]; exact h a _ t ((portsOnly_granted s q).inv i) hf

/-- The same of a Write-back grant. -/
theorem State.Inv.grantWriteBack {s : State} (i : s.Inv) {f : State → Option State}
    (h : ∀ t u, t.Inv → f t = some u → u.Inv) : (s.grantWriteBack f).Inv := by
  unfold State.grantWriteBack
  dsimp only
  split
  · cases hf : f { s.serveReads with lastGranted := .w } with
    | none => exact i
    | some t =>
      refine h _ t (PortsOnly.inv ?_ i) hf
      exact (portsOnly_serveReads s).trans ⟨_, _, _, rfl⟩
  · exact i

/-! ## Addresses -/

theorem statusOffset_lt {off : Nat} (h : off ∈ statusOffsets) : 0x200 ≤ off ∧ off < 0x240 := by
  simp only [statusOffsets, List.mem_map, List.mem_range] at h
  obtain ⟨i, hi, rfl⟩ := h
  omega

/-- An address outside the guard page is no status word. -/
theorem not_status_of_outside {page : BitVec 4} {a : Word} (h : inGuardPage page a = false) :
    ∀ off ∈ statusOffsets, guardAddress page off ≠ a := by
  intro off m e
  have := statusOffset_lt m
  rw [← e, inGuardPage_guardAddress page off (by omega)] at h
  cases h

/-- An address in the guard page at another offset is no status word. -/
theorem not_status_of_offset {page : BitVec 4} {a : Word} (h : inGuardPage page a = true)
    (g : guardOffset a < 0x200 ∨ 0x240 ≤ guardOffset a) : ∀ off ∈ statusOffsets, guardAddress page off ≠ a := by
  intro off m e
  have b := statusOffset_lt m
  rw [← guardAddress_guardOffset page a h] at e
  have := guardAddress_inj page (by omega) (guardOffset_lt a) e
  omega

/-- What the class of an address says about where it lies (R22). -/
theorem classify_guard {s : State} {a : Word} {c : WordClass} (h : s.classify a = c) :
    (inGuardPage s.store.page a = true ∧ c = guardClass (guardOffset a)) ∨
      (inGuardPage s.store.page a = false ∧ ∀ off, c ≠ .configuration off ∧ c ≠ .control off ∧ c ≠ .report off) := by
  unfold State.classify at h
  split at h
  · next hg => exact Or.inl ⟨hg, h.symm⟩
  · next hg =>
    refine Or.inr ⟨by simpa using hg, fun off => ?_⟩
    split at h
    · subst h; exact ⟨by simp, by simp, by simp⟩
    · split at h
      · subst h; exact ⟨by simp, by simp, by simp⟩
      · subst h; exact ⟨by simp, by simp, by simp⟩

/-- A word of a class other than a report word is no status word. -/
theorem not_status_of_classify {s : State} {a : Word} (h : ∀ off, s.classify a ≠ .report off) :
    ∀ off ∈ statusOffsets, guardAddress s.store.page off ≠ a := by
  rcases classify_guard (s := s) (a := a) rfl with ⟨hg, hc⟩ | ⟨hg, _⟩
  · refine not_status_of_offset hg ?_
    by_cases hr : isReportOffset (guardOffset a) = true
    · exfalso
      have : 0x108 ≤ guardOffset a := by
        simp only [isReportOffset, Bool.or_eq_true, Bool.and_eq_true, decide_eq_true_eq] at hr
        omega
      refine h (guardOffset a) ?_
      rw [hc, guardClass, if_neg (by omega), if_neg (by omega), if_pos hr]
    · simp only [isReportOffset, Bool.or_eq_true, Bool.and_eq_true, decide_eq_true_eq, not_or] at hr
      omega
  · exact not_status_of_outside hg

/-- The address of a report word is that of its offset (R22). -/
theorem report_of_classify {s : State} {a : Word} {off : Nat} (h : s.classify a = .report off) :
    a = guardAddress s.store.page off ∧ isReportOffset off = true := by
  rcases classify_guard h with ⟨hg, hc⟩ | ⟨_, hn⟩
  · have : off = guardOffset a ∧ isReportOffset (guardOffset a) = true := by
      unfold guardClass at hc
      split at hc
      · cases hc
      · split at hc
        · cases hc
        · split at hc
          · next hr => cases hc; exact ⟨rfl, hr⟩
          · cases hc
    refine ⟨?_, this.1 ▸ this.2⟩
    rw [this.1]
    exact (guardAddress_guardOffset _ a hg).symm
  · exact absurd rfl (hn off).2.2

/-! ## Report words stored (R28, R34) -/

theorem isReport_lt {off : Nat} (h : isReportOffset off = true) : off < 0x1000 := by
  simp only [isReportOffset, Bool.or_eq_true, Bool.and_eq_true, decide_eq_true_eq] at h
  omega

/-- A report word stored, what the freeing of its slot's context does, and the end of the event. -/
theorem State.Inv.storeReport {s u v : State} {off : Nat} (i : s.Inv) (h : Inside s u)
    (hs : ∀ x ∈ statusOffsets, x ∉ u.dirty → u.readImage (guardAddress u.store.page x) = u.reportImage x)
    (hr : isReportOffset off = true) (g : Inside (u.storeReport off) v) : (v.finish u).Inv := by
  have us := h.sound i.sound
  have f := Inside.finish v u
  have c := us.canonical
  have image : (u.storeReport off).image = u.image.write (guardAddress u.store.page off).toNat (u.reportImage off) := rfl
  have dirty : (u.storeReport off).dirty = u.dirty.filter (· != off) := rfl
  have stored : (u.storeReport off).Sound :=
    ⟨⟨List.Pairwise.filter _ us.dirtyOrdered.1, fun x m => us.dirtyOrdered.2 x (List.mem_filter.1 m).1⟩,
      us.oneInjectionEach, ⟨Memory.wf_write _ _ _ c.1, c.2.1, c.2.2.1, c.2.2.2⟩, us.addressesOutside, us.demandsMet,
      us.latchHolds⟩
  refine ⟨f.sound (g.sound stored), finish_settled v u, fun x mem nd => ?_⟩
  have page : (v.finish u).store.page = u.store.page := f.page.trans g.page
  have img : (v.finish u).image = u.image.write (guardAddress u.store.page off).toNat (u.reportImage off) :=
    (f.image.trans g.image).trans image
  have clean : x ∉ (u.storeReport off).dirty := fun d => nd (f.dirty x (g.dirty x d))
  have report : (v.finish u).reportImage x = u.reportImage x :=
    Classical.byContradiction fun ne => nd (mem_finish_of_changed v u x mem ne)
  rw [State.readImage, page, img, report, Memory.read_write _ _ _ _ c.1]
  split
  · next e =>
    have b := statusOffset_lt mem
    have : x = off := guardAddress_inj u.store.page (by omega) (isReport_lt hr) (BitVec.eq_of_toNat_eq e)
    rw [this]
  · next ne =>
    refine hs x mem fun d => clean ?_
    rw [dirty]
    refine List.mem_filter.2 ⟨d, ?_⟩
    simp only [bne_iff_ne]
    exact fun e => ne (by rw [e])

/-- Marking the changed words makes the status words in memory current again. -/
theorem markChanged_current {s u : State} (i : s.Inv) (h : Inside s u) :
    ∀ x ∈ statusOffsets, x ∉ (u.markChanged s).dirty →
      (u.markChanged s).readImage (guardAddress (u.markChanged s).store.page x) = (u.markChanged s).reportImage x := by
  intro x mem nd
  have g := h.trans (.markChanged u s)
  have report : (u.markChanged s).reportImage x = s.reportImage x := by
    refine Classical.byContradiction fun ne => nd ?_
    unfold State.markChanged at ne ⊢
    rw [reportImage_markAll] at ne
    rw [mem_markAll]
    exact Or.inr (List.mem_filter.2 ⟨mem, by simpa [bne_iff_ne] using fun e => ne (Eq.symm e)⟩)
  rw [State.readImage, g.page, g.image, report]
  exact i.statusCurrent x mem fun d => nd (g.dirty x d)

/-- A write to a report word (R28): the clearings, the image stored, the end of the event. -/
theorem State.Inv.storeCleared {s u : State} {off : Nat} (i : s.Inv) (h : Inside s u) (hr : isReportOffset off = true) :
    (u.storeCleared s off).Inv :=
  State.Inv.storeReport i (h.trans (.markChanged u s)) (markChanged_current i h) hr (.slotWritten _ off)

/-! ## The tick (R76, R176) -/

theorem sample_level (x : Filter) (n : Nat) (line : Bool) : (x.sample n line).level = x.level := by
  unfold Filter.sample
  split
  · rfl
  · split <;> rfl

end Sys2Proof.Machine
end

