-- ==== Sys2Proof/Laws/Event.lean ====
section
/-! SUPPORT. What raising a frame, the end of an event and an evaluation amount to where nothing stands in their way. -/

namespace Sys2Proof.Machine

/-- A frame raised in an unmarked slot (R168, R172). -/
theorem raise_unmarked (s : State) (i : Incident) (h : s.slotUnmarked) :
    s.raise i = ({ s with recorder := s.recorded i }).markAll s.frameMarks := by
  have reuse : s.reuseSlot s.recorder.index = s := by
    unfold State.reuseSlot
    rw [show s.waitingOn s.recorder.index = none from h]
  unfold State.raise
  dsimp only
  rw [reuse]
  rfl

theorem watchDead_of_noDeadWait (s : State) (k : CtxId)
    (h : ¬((s.context k).state = .active ∧ (s.context k).phase = .deadWait)) : s.watchDead k = s := by
  unfold State.watchDead
  exact if_neg h

/-- The end of an event marks the words that changed, where nothing has been freed and no context is in DEAD_WAIT. -/
theorem finish_steady (s before : State) (h : s.steady) : s.finish before = s.markChanged before := by
  have fold : ∀ ks : List CtxId, ks.foldl State.watchDead s = s := by
    intro ks
    induction ks with
    | nil => rfl
    | cons k ks ih =>
      rw [List.foldl_cons, watchDead_of_noDeadWait s k (h.2 k)]
      exact ih
  unfold State.finish
  rw [settleFreed_settled _ _ h.1, fold]

/-- Marking leaves everything but the dirty set, and takes no word out of it. -/
theorem markChanged_eq (s before : State) : s.markChanged before = { s with dirty := (s.markChanged before).dirty } :=
  markAll_eq s _

theorem mem_markChanged (s before : State) (off : Nat) (h : off ∈ s.dirty) : off ∈ (s.markChanged before).dirty :=
  (mem_markAll s _ off).2 (Or.inl h)

/-- The evaluation of no section does nothing. -/
theorem evaluate_nil (asg : State → State) (c : Option Slot) (s : State) : s.evaluate asg c [] = s := by
  have none : s.leadsOf [] = [] := List.filter_eq_nil_iff.2 (by simp)
  unfold State.evaluate evaluateN
  rw [none]
  rfl

/-- Context assignment does nothing on an empty queue. -/
theorem assign_empty (s : State) (h : s.queue = []) : assign s = s := by
  unfold assign
  show assignN (31 + 1) s = s
  unfold assignN
  rw [h]

end Sys2Proof.Machine
end

