-- ==== Sys2Proof/Laws/PerInstr.lean ====
section
/-! SUPPORT. Per constructor: only a read that offers data is ill formed. -/

namespace Sys2Proof.Laws

/-- An ill-formed command presents a read that offers data. -/
def WellFormed.Statement (i : Instr) : Prop :=
  i.wellFormed = false → ∃ (q : PortId) (a : Access), i = .accessPresent q a ∧ a.dir = .read ∧ a.data ≠ 0

theorem WellFormed.hardwareReset (strap : BitVec 4) : WellFormed.Statement (.hardwareReset strap) := nofun

theorem WellFormed.accessPresent (port : PortId) (a : Access) : WellFormed.Statement (.accessPresent port a) := by
  intro h
  obtain ⟨dir, addr, data⟩ := a
  cases dir with
  | read => exact ⟨port, _, rfl, rfl, by simpa [Instr.wellFormed, Access.wellFormed] using h⟩
  | write => cases h

theorem WellFormed.accessWithdrawn (port : PortId) : WellFormed.Statement (.accessWithdrawn port) := nofun

theorem WellFormed.processorOpen : WellFormed.Statement .processorOpen := nofun

theorem WellFormed.processorClose : WellFormed.Statement .processorClose := nofun

theorem WellFormed.malformedCommandWrite : WellFormed.Statement .malformedCommandWrite := nofun

theorem WellFormed.positionWrite : WellFormed.Statement .positionWrite := nofun

theorem WellFormed.configurationWrite : WellFormed.Statement .configurationWrite := nofun

theorem WellFormed.commit : WellFormed.Statement .commit := nofun

theorem WellFormed.restart : WellFormed.Statement .restart := nofun

theorem WellFormed.eopClear : WellFormed.Statement .eopClear := nofun

theorem WellFormed.arm : WellFormed.Statement .arm := nofun

theorem WellFormed.disarm : WellFormed.Statement .disarm := nofun

theorem WellFormed.release : WellFormed.Statement .release := nofun

theorem WellFormed.manualRequest : WellFormed.Statement .manualRequest := nofun

theorem WellFormed.attentionClear : WellFormed.Statement .attentionClear := nofun

theorem WellFormed.deviceFlagClear : WellFormed.Statement .deviceFlagClear := nofun

theorem WellFormed.reportWordWrite : WellFormed.Statement .reportWordWrite := nofun

theorem WellFormed.otherWordWrite (port : PortId) : WellFormed.Statement (.otherWordWrite port) := nofun

theorem WellFormed.scannerCommandRead : WellFormed.Statement .scannerCommandRead := nofun

theorem WellFormed.positionWord : WellFormed.Statement .positionWord := nofun

theorem WellFormed.fieldWrite : WellFormed.Statement .fieldWrite := nofun

theorem WellFormed.injectionWrite : WellFormed.Statement .injectionWrite := nofun

theorem WellFormed.reportWriteBack : WellFormed.Statement .reportWriteBack := nofun

theorem WellFormed.healthLevelFall (n : SrcId) : WellFormed.Statement (.healthLevelFall n) := nofun

theorem WellFormed.healthLevelRise (n : SrcId) : WellFormed.Statement (.healthLevelRise n) := nofun

theorem WellFormed.lockLevelRise (b : SecId) : WellFormed.Statement (.lockLevelRise b) := nofun

theorem WellFormed.lockLevelFall (b : SecId) : WellFormed.Statement (.lockLevelFall b) := nofun

theorem WellFormed.eopFilteredChange : WellFormed.Statement .eopFilteredChange := nofun

theorem WellFormed.eopFilterSeed : WellFormed.Statement .eopFilterSeed := nofun

theorem WellFormed.syncLevelChange : WellFormed.Statement .syncLevelChange := nofun

theorem WellFormed.syncGrant : WellFormed.Statement .syncGrant := nofun

theorem WellFormed.rideThroughExpiry (n : SrcId) : WellFormed.Statement (.rideThroughExpiry n) := nofun

theorem WellFormed.stabilityExpiry (n : SrcId) : WellFormed.Statement (.stabilityExpiry n) := nofun

theorem WellFormed.coolDownExpiry (n : SrcId) : WellFormed.Statement (.coolDownExpiry n) := nofun

theorem WellFormed.operateDeadlineExpiry (d : DevId) : WellFormed.Statement (.operateDeadlineExpiry d) := nofun

theorem WellFormed.startLimitExpiry (k : CtxId) : WellFormed.Statement (.startLimitExpiry k) := nofun

theorem WellFormed.deadBusExpiry (k : CtxId) : WellFormed.Statement (.deadBusExpiry k) := nofun

theorem WellFormed.restoreStaggerExpiry (k : CtxId) : WellFormed.Statement (.restoreStaggerExpiry k) := nofun

theorem WellFormed.settleExpiry : WellFormed.Statement .settleExpiry := nofun

theorem WellFormed.syncWindowExpiry : WellFormed.Statement .syncWindowExpiry := nofun

theorem WellFormed.overlapExpiry (k : CtxId) : WellFormed.Statement (.overlapExpiry k) := nofun

theorem WellFormed.millisecondTick (sh lk : BitVec 4) (eop sync : Bool) : WellFormed.Statement (.millisecondTick sh lk eop sync) := nofun

end Sys2Proof.Laws
end

