-- ==== Sys2Proof/Laws/Shapes.lean ====
section
/-! SUPPORT. What an operation leaves, written as one record: the state it met with the fields it changed. A proof about a
row rewrites with these until both sides are records. `markList` is the dirty set with offsets put in. -/

namespace Sys2Proof

/-! ## Tables written twice, or written back -/

theorem Three.set_set {α : Type} (t : Three α) (i : Fin 3) (a b : α) : (t.set i a).set i b = t.set i b := by
  match i with
  | 0 => rfl
  | 1 => rfl
  | 2 => rfl

theorem Four.set_set {α : Type} (t : Four α) (i : Fin 4) (a b : α) : (t.set i a).set i b = t.set i b := by
  match i with
  | 0 => rfl
  | 1 => rfl
  | 2 => rfl
  | 3 => rfl

theorem Sixteen.set_set {α : Type} (t : Sixteen α) (i : Fin 16) (a b : α) : (t.set i a).set i b = t.set i b := by
  unfold Sixteen.set
  simp [Four.set_set]

theorem Three.set_get {α : Type} (t : Three α) (i : Fin 3) : t.set i (t.get i) = t := by
  match i with
  | 0 => rfl
  | 1 => rfl
  | 2 => rfl

theorem Four.set_get {α : Type} (t : Four α) (i : Fin 4) : t.set i (t.get i) = t := by
  match i with
  | 0 => rfl
  | 1 => rfl
  | 2 => rfl
  | 3 => rfl

theorem Sixteen.set_get {α : Type} (t : Sixteen α) (i : Fin 16) : t.set i (t.get i) = t := by
  unfold Sixteen.set Sixteen.get
  rw [Four.set_get, Four.set_get]

theorem FourSet.mem_toList (x : FourSet) (b : Fin 4) : b ∈ FourSet.toList x ↔ x.get b = true := by
  unfold FourSet.toList
  simp only [List.mem_filter]
  refine ⟨And.right, fun h => ⟨?_, h⟩⟩
  match b with
  | 0 => decide
  | 1 => decide
  | 2 => decide
  | 3 => decide

namespace Machine

/-! ## The dirty set -/

/-- Offsets put into an ascending list of offsets. -/
def markList (offs marked : List Nat) : List Nat := offs.foldl (fun m off => insertOffset off m) marked

theorem markAll_markList (s : State) (offs : List Nat) : s.markAll offs = { s with dirty := markList offs s.dirty } := by
  induction offs generalizing s with
  | nil => rfl
  | cons x xs ih => exact (ih (s.markDirty x)).trans rfl

theorem markDirty_markList (s : State) (off : Nat) : s.markDirty off = { s with dirty := markList [off] s.dirty } := rfl

theorem mem_markList (offs marked : List Nat) (off : Nat) : off ∈ markList offs marked ↔ off ∈ marked ∨ off ∈ offs := by
  have h := mem_markAll { State.reset with dirty := marked } offs off
  rw [markAll_markList] at h
  exact h

/-! ## The end of an event -/

/-- The status words whose image is not what it was in t. -/
def changedOffsets (u t : State) : List Nat := statusOffsets.filter fun off => t.reportImage off != u.reportImage off

theorem changedOffsets_none {u t : State} (h : ∀ off, u.reportImage off = t.reportImage off) : changedOffsets u t = [] := by
  unfold changedOffsets
  exact List.filter_eq_nil_iff.2 fun off _ => by simp [h]

theorem State.steady.of {u t : State} (h : t.steady) (hc : u.contexts = t.contexts) (hf : u.freed = t.freed) :
    u.steady := by
  refine ⟨?_, fun k => ?_⟩
  · rw [State.settled, hf]
    exact h.1
  · unfold State.context
    rw [hc]
    exact h.2 k

/-- An event that leaves the contexts: its end puts the changed words into the dirty set. -/
theorem finish_marked (u t : State) (h : t.steady) (hc : u.contexts = t.contexts) (hf : u.freed = t.freed) :
    u.finish t = { u with dirty := markList (changedOffsets u t) u.dirty } := by
  rw [finish_steady u t (h.of hc hf)]
  exact markAll_markList _ _

/-- An event that makes one context blank. -/
theorem noDeadWait_blank {t u : State} (k : CtxId) (h : t.noDeadWait) (e : u.contexts = t.contexts.set k Context.blank) :
    u.noDeadWait := by
  intro j
  unfold State.context
  rw [e, Three.get_set]
  split
  · intro h
    cases h.1
  · exact h j

/-! ## Frames -/

theorem State.slotUnmarked.of {u t : State} (h : t.slotUnmarked) (e : u.recorder = t.recorder) : u.slotUnmarked := by
  unfold State.slotUnmarked State.waitingOn at *
  rw [e]
  exact h

/-- A frame raised in an unmarked slot. -/
theorem raise_recorded (s : State) (i : Incident) (h : s.slotUnmarked) :
    s.raise i = { s with recorder := s.recorded i, dirty := markList s.frameMarks s.dirty } := by
  rw [raise_unmarked s i h, markAll_markList]

/-- A frame raised in a slot that a context waits on (R173). -/
theorem raise_marked (s : State) (i : Incident) (k : CtxId) (h : s.waitingOn s.recorder.index = some k) :
    s.raise i = { s with
      contexts := s.contexts.set k Context.blank,
      recorder := { s.recorded i with marks := s.recorder.marks.set k none }, freed := s.freed.set k true,
      dirty := markList s.frameMarks (markList (contextStatusOffsets k) s.dirty) } := by
  have reuse : s.reuseSlot s.recorder.index = { s with
      contexts := s.contexts.set k Context.blank,
      recorder := { s.recorder with marks := s.recorder.marks.set k none }, freed := s.freed.set k true,
      dirty := markList (contextStatusOffsets k) s.dirty } := by
    unfold State.reuseSlot
    rw [h]
    dsimp only
    unfold State.freeContext
    rw [markAll_markList]
    rfl
  unfold State.raise
  dsimp only
  rw [reuse, markAll_markList]
  rfl

/-! ## Grants -/

/-- A write that the arbiter grants is carried out at the state of the grant. -/
theorem grantWrite_granted {s t : State} {q : PortId} {a : Access} (h : s.grantsWrite q a) (ht : s.granted q = t)
    (f : Access → State → Option State) : s.grantWrite q f = (f a t).getD s := by
  rw [grantWrite_of s q a f h, ht]

/-- The same of a Write-back grant. -/
theorem grantWriteBack_granted {s t : State} (h : s.grantsWriteBack) (ht : s.writeBackGranted = t)
    (f : State → Option State) : s.grantWriteBack f = (f t).getD s := by
  unfold State.grantWriteBack
  dsimp only
  rw [if_pos (show s.serveReads.nextGrant = some .w from h), ← ht]
  rfl

theorem commandWrite_of {t : State} {a : Access} {d : DevId} {code : Option Cmd} (hc : t.classify a.addr = .command d)
    (h : commandCode a.data = code) (act : DevId → Access → State → State) :
    commandWrite code act a t = some ((act d a t).finish t) := by
  unfold commandWrite
  rw [hc]
  exact if_pos h

theorem controlWrite_of {t : State} {a : Access} {off : Nat} (hc : t.classify a.addr = .control off)
    (f : Access → State → State) : controlWrite off f a t = some (f a (t.storeWord a.addr 0)) := by
  unfold controlWrite
  rw [hc]
  exact if_pos rfl

theorem controlEvent_of {t : State} {a : Access} {off : Nat} (hc : t.classify a.addr = .control off)
    (f : Access → State → State) :
    controlEvent off f a t = some ((f a (t.storeWord a.addr 0)).finish (t.storeWord a.addr 0)) :=
  controlWrite_of hc _

theorem event_due (s : State) (f : State → State) : s.event true f = (f s).finish s := rfl
theorem event_not_due (s : State) (f : State → State) : s.event false f = s := rfl

theorem generalWrite_of {t : State} {a : Access} {i : Nat} (hc : t.classify a.addr = .control 0x100)
    (h : flag a.data i = true) :
    generalWrite i a t = some ((t.storeWord a.addr 0).generalControl a.data) := by
  unfold generalWrite
  rw [if_pos h, controlWrite_of hc]

/-! ## Devices that no context owns -/

theorem ownerContext_eq_none {s : State} {d : DevId} :
    s.ownerContext d = none ↔ ∀ k, (s.device d).owner ≠ .context k := by
  unfold State.ownerContext
  split <;> simp_all

theorem tell_none (s : State) (f : CtxId → State → State) : s.tell none f = s := rfl

theorem tellOwner_none (s : State) (d : DevId) (f : CtxId → State → State) (h : s.ownerContext d = none) :
    s.tellOwner d f = s := by
  unfold State.tellOwner
  rw [h, tell_none]

theorem tellIfObserved_none (s : State) (d : DevId) (code : Cmd) : s.tellIfObserved none d code = s := ite_self s

/-- A notice that no context is to hear changes nothing. -/
theorem tellEach_none (s : State) (who : CtxId → Bool) (f : State → CtxId → State) (h : ∀ k, who k = false) :
    s.tellEach who f = s := by
  unfold State.tellEach
  rw [List.filter_eq_nil_iff.mpr fun k _ => by simp [h k]]
  rfl

/-! ## Sections and the queue -/

theorem setQueue_shape (s : State) (q : List Request) :
    ∃ D, (∀ off ∈ s.dirty, off ∈ D) ∧ s.setQueue q = { s with queue := q, dirty := D } := by
  unfold State.setQueue
  rw [markAll_markList]
  exact ⟨_, fun off m => (mem_markList _ _ _).2 (Or.inl m), rfl⟩

theorem setSectionState_shape (s : State) (b : SecId) (st : SectionState) :
    ∃ D, (∀ off ∈ s.dirty, off ∈ D) ∧
      s.setSectionState b st = { s with sections := s.sections.set b { s.section b with state := st }, dirty := D } := by
  unfold State.setSectionState
  split
  · next h =>
    refine ⟨s.dirty, fun _ m => m, ?_⟩
    rw [← h]
    show s = { s with sections := s.sections.set b (s.sections.get b) }
    rw [Four.set_get]
  · exact ⟨_, fun off m => (mem_markList [sectionStatusOffset b] _ _).2 (Or.inl m), rfl⟩

theorem setSectionStates_shape (s : State) (bs : List SecId) (st : SectionState) :
    ∃ S D, (∀ off ∈ s.dirty, off ∈ D) ∧
      (∀ b, S.get b = if b ∈ bs then { s.section b with state := st } else s.section b) ∧
      s.setSectionStates bs st = { s with sections := S, dirty := D } := by
  induction bs generalizing s with
  | nil => exact ⟨s.sections, s.dirty, fun _ h => h, by simp [State.section], rfl⟩
  | cons b bs ih =>
    show ∃ S D, _ ∧ _ ∧ (s.setSectionState b st).setSectionStates bs st = _
    obtain ⟨D', d1, d2⟩ := setSectionState_shape s b st
    have e : ∀ c, (s.setSectionState b st).section c = if c = b then { s.section b with state := st } else s.section c := by
      intro c
      rw [d2]
      exact Four.get_set _ _ _ _
    obtain ⟨S, D, h1, h2, h3⟩ := ih (s.setSectionState b st)
    refine ⟨S, D, fun off m => h1 off ?_, fun c => ?_, ?_⟩
    · rw [d2]
      exact d1 off m
    · rw [h2, e]
      by_cases hc : c = b
      · subst hc
        simp
      · simp [hc]
    · rw [h3, d2]

theorem mem_namedSections (w : Word) (b : SecId) : b ∈ namedSections w ↔ flag w b.val = true := by
  unfold namedSections
  simp only [List.mem_filter]
  refine ⟨And.right, fun h => ⟨?_, h⟩⟩
  match b with
  | 0 => decide
  | 1 => decide
  | 2 => decide
  | 3 => decide

/-! ## Evaluation and freeing where there is nothing to do -/

theorem foldl_fixed {α : Type} (f : State → α → State) (s : State) (h : ∀ x, f s x = s) (xs : List α) :
    xs.foldl f s = s := by
  induction xs with
  | nil => rfl
  | cons x xs ih => rw [List.foldl_cons, h, ih]

theorem evaluate_nothing (asg : State → State) (s : State) (c : Option Slot) (bs : List SecId)
    (h : s.nothingToEvaluate) : s.evaluate asg c bs = s := by
  unfold State.evaluate
  show evaluateN asg (4 + 1) c bs s = s
  unfold evaluateN
  refine foldl_fixed _ _ (fun b => ?_) _
  dsimp only
  rw [h.1, if_neg (by simp)]
  unfold State.evaluateReturn
  dsimp only
  split
  · rw [h.2]
    rfl
  · rfl

theorem afterFreeing_nothing (s : State) (h : s.queue = []) (hp : s.store.pendingCopy = none) : s.afterFreeing = s := by
  unfold State.afterFreeing State.applyIfFree
  rw [hp]
  exact assign_empty _ h

/-- A stored word that leaves its slot unwritten, or is in no frame, frees no context. -/
theorem slotWritten_same (s : State) (off : Nat)
    (h : off < 0x400 ∨ s.waitingOn (slotAt off) = none ∨ ∃ x ∈ slotOffsets (slotAt off), x ∈ s.dirty) :
    s.slotWritten off = s := by
  unfold State.slotWritten
  split
  · rfl
  · next hl =>
    split
    · next k hk =>
      rcases h with h | h | ⟨x, h1, h2⟩
      · omega
      · rw [h] at hk
        cases hk
      · rw [if_pos]
        simp only [List.any_eq_true]
        exact ⟨x, h1, by simpa using h2⟩
    · rfl

/-- The last word of a marked slot stored (R126, R173). -/
theorem slotWritten_frees (s : State) (off : Nat) (k : CtxId) (h4 : 0x400 ≤ off) (hw : s.waitingOn (slotAt off) = some k)
    (hx : ∀ x ∈ slotOffsets (slotAt off), x ∉ s.dirty) (hq : s.queue = []) (hp : s.store.pendingCopy = none) :
    s.slotWritten off = { s with
      contexts := s.contexts.set k Context.blank,
      recorder := { s.recorder with marks := s.recorder.marks.set k none },
      dirty := markList (contextStatusOffsets k) s.dirty } := by
  unfold State.slotWritten
  rw [if_neg (by omega), hw]
  dsimp only
  rw [if_neg (by simpa using hx), afterFreeing_nothing]
  · unfold State.freeContext
    rw [markAll_markList]
    rfl
  · unfold State.freeContext
    rw [markAll_markList]
    exact hq
  · unfold State.freeContext
    rw [markAll_markList]
    exact hp

theorem markChanged_self (s : State) : s.markChanged s = s := by
  unfold State.markChanged
  rw [show (statusOffsets.filter fun off => s.reportImage off != s.reportImage off) = [] from
    List.filter_eq_nil_iff.2 (by simp)]
  rfl

/-- A write to a report word that is in no frame (R28). -/
theorem storeCleared_shape (u t : State) (off : Nat) (h : off < 0x400) (hs : t.steady) (hc : u.contexts = t.contexts)
    (hf : u.freed = t.freed) :
    u.storeCleared t off = { u with
      image := u.image.write (guardAddress u.store.page off).toNat (u.reportImage off),
      dirty := (markList (changedOffsets u t) u.dirty).filter (· != off) } := by
  unfold State.storeCleared
  dsimp only
  rw [show u.markChanged t = { u with dirty := markList (changedOffsets u t) u.dirty } from markAll_markList _ _]
  generalize markList (changedOffsets u t) u.dirty = D
  rw [slotWritten_same _ _ (Or.inl h), finish_marked _ _ (hs.of ?_ ?_) ?_ ?_, changedOffsets_none]
  · rfl
  · exact fun _ => rfl
  · exact hc
  · exact hf
  · rfl
  · rfl

end Machine
end Sys2Proof
end

