-- ==== Sys2Proof/Tests/Slice0.lean ====
section
/-! SUPPORT. The smoke test of the well-formedness check, a few words of the spec's tables, and for every statement with
hypotheses a state and operands that meet them together, clause by clause. -/

set_option Elab.async false

namespace Sys2Proof.Machine.Tests

open Sys2Proof

/-! ## Well-formedness -/

theorem test_read_offers_no_data : (Instr.accessPresent .p ⟨.read, 0x1234, 0⟩).wellFormed = true := by decide

theorem test_ill_formed_read_refused : (Instr.accessPresent .p ⟨.read, 0x1234, 1⟩).wellFormed = false := by decide

theorem test_no_word_spells_a_command : decodeTableWord 8 0x21 = none ∧ State.reset.withFetchWord 8 0x21 = State.reset := by
  exact ⟨rfl, rfl⟩

/-! ## A small plant: two incomers, three ties, one emergency-open feeder -/

def entryAt (kind : DeviceKind) (command position : Word) : DeviceEntry :=
  { DeviceEntry.blank with kind := kind, command := command, position := position, limit := 100 }

def plant : Board :=
  { Board.empty with
    devices :=
      (((((Board.empty.devices.set 0 (entryAt (.incomer 0 0) 0x8000 0x8001)).set 1
        (entryAt (.incomer 1 1) 0x8010 0x8011)).set 2 (entryAt (.tie 0) 0x8020 0x8021)).set 3
        { entryAt (.feeder 0) 0x8030 0x8031 with emergencyOpen := true }).set 4 (entryAt (.tie 1) 0x8040 0x8041)).set 5
        (entryAt (.tie 2) 0x8050 0x8051)
    sources :=
      (Four.fill { Board.empty.sources.get 0 with generator := true, capacity := 100, filterLength := 3 }).set 3
        (Board.empty.sources.get 3)
    sections := Four.fill { Board.empty.sections.get 0 with routes := [.source 0, .source 1, .tieRight] } }

/-- GUARDING on that plant, every breaker reported nothing yet. -/
def on : State := { State.reset with store := { State.reset.store with working := some plant, status := .applied } }

/-- Port q holds a write, or a read. -/
def wr (q : PortId) (a w : Word) (s : State) : State := s.setPort q { access := some ⟨.write, a, w⟩, data := 0 }
def rd (q : PortId) (a : Word) (s : State) : State := s.setPort q { access := some ⟨.read, a, 0⟩, data := 0 }

def at_ (d : DevId) (p : Position) (s : State) : State :=
  s.updDevice d fun x => { x with observed := p, available := true }
def owned (d : DevId) (o : Owner) (s : State) : State := s.updDevice d fun x => { x with owner := o }
def inState (b : SecId) (st : SectionState) (s : State) : State := s.setSection b { s.section b with state := st }

/-- The incomer of S1 stands open, everything else is counted closed: every section is FED by S0. -/
def fed : State := at_ 1 .opened on

/-- A context of a phase on B0 and B1. -/
def runs (k : CtxId) (f : Context → Context) (s : State) : State :=
  s.setContext k (f { Context.blank with state := .active, set := ⟨true, true, false, false⟩, phase := .closing })

theorem on_inv : on.Inv := by
  refine ⟨⟨⟨by decide +kernel, by decide +kernel⟩, ⟨List.Pairwise.nil, fun e m => by cases m⟩,
    ⟨rfl, rfl, rfl, fun m h => by cases h⟩, ⟨?_, fun m h => by cases h⟩, ?_, fun h => by cases h⟩, rfl,
    fun off m nd => absurd m nd⟩
  · unfold Board.outside
    decide +kernel
  · unfold State.demandsMet
    decide +kernel

theorem fed_inv : fed.Inv := by
  refine ⟨⟨⟨by decide +kernel, by decide +kernel⟩, ⟨List.Pairwise.nil, fun e m => by cases m⟩,
    ⟨rfl, rfl, rfl, fun m h => by cases h⟩, ⟨?_, fun m h => by cases h⟩, ?_, fun h => by cases h⟩, rfl,
    fun off m nd => absurd m nd⟩
  · unfold Board.outside
    decide +kernel
  · unfold State.demandsMet
    decide +kernel

/-! ## The words of Safety.lean, as checks that evaluate -/

theorem steady_of {s : State}
    (h : (s.freed == Three.fill false &&
      allContexts.all fun k => !((s.context k).state == .active && (s.context k).phase == .deadWait)) = true) :
    s.steady := by
  simp only [Bool.and_eq_true, beq_iff_eq, List.all_eq_true, Bool.not_eq_true', Bool.and_eq_false_imp] at h
  refine ⟨h.1, fun k hk => ?_⟩
  have m : k ∈ allContexts := by
    match k with
    | 0 => decide
    | 1 => decide
    | 2 => decide
  have := h.2 k m hk.1
  rw [hk.2] at this
  cases this

theorem grants_of {s : State} {q : PortId} {a : Access}
    (h : (s.serveReads.nextPort == some q && (s.serveReads.port q).access == some a && a.dir == .write) = true) :
    s.grantsWrite q a := by
  simp only [Bool.and_eq_true, beq_iff_eq] at h
  exact ⟨h.1.1, h.1.2, h.2⟩

theorem reads_of {s : State} {a : Access} {d : DevId}
    (h : (s.serveReads.nextPort == some .f && (s.serveReads.port .f).access == some a && a.dir == .read &&
      s.serveReads.classify a.addr == .command d) = true) : s.grantsCommandRead a d := by
  simp only [Bool.and_eq_true, beq_iff_eq] at h
  exact ⟨h.1.1.1, h.1.1.2, h.1.2, h.2⟩

/-- Port q is granted the write of `w` at `a` in s, a word of the class; the state at the grant is steady. -/
def gr (q : PortId) (a w : Word) (s : State) : State := (wr q a w s).granted q
abbrev meets (q : PortId) (a w : Word) (c : WordClass) (s : State) : Prop :=
  (wr q a w s).grantsWrite q ⟨.write, a, w⟩ ∧ (gr q a w s).classify a = c ∧ (gr q a w s).steady

/-- The state that a command leaves. -/
def done (c : Instr) (s : State) : State := stateOf s (exec c s)

theorem forContexts {p : CtxId → Prop} (h0 : p 0) (h1 : p 1) (h2 : p 2) : ∀ k, p k := fun k =>
  match k with
  | 0 => h0
  | 1 => h1
  | 2 => h2

/-! ## The queue, the ports, the arbiter, the invariant -/

theorem test_EmptyQueueCarriesAPlainRead_met :
    (∃ (s : State) (q : PortId) (a : Access), s.pending = [] ∧ s.nextPort = some q ∧ (s.port q).access = some a ∧
      s.plainRead q a = true) ∧
    ∃ s : State, s.pending = [] ∧
      ∀ (q : PortId) (a : Access), s.nextPort = some q → (s.port q).access = some a → s.plainRead q a = false := by
  refine ⟨⟨rd .p 0x1234 State.reset, .p, ⟨.read, 0x1234, 0⟩, by decide +kernel, by decide +kernel, by decide +kernel,
    by decide +kernel⟩, State.reset, rfl, fun q a h => ?_⟩
  rw [show State.reset.nextPort = none by decide +kernel] at h
  cases h

theorem test_PortsHoldOneAccess_met :
    (State.reset.port .p).access = none ∧ ((rd .f 0 State.reset).port .f).access = some ⟨.read, 0, 0⟩ := by
  exact ⟨rfl, rfl⟩

theorem test_ArbiterServesWithinThreeGrants_met :
    State.reset.nextGrant = some .w ∧ ({ State.reset with dirty := [] }).nextGrant = none ∧
    ∃ s₁ s₂ s₃ : State, s₁.waiting .p = true ∧ s₂.waiting .p = true ∧ s₃.waiting .p = true ∧ s₁.nextGrant = some .f ∧
      s₂.lastGranted = .f ∧ s₂.nextGrant = some .w ∧ s₃.lastGranted = .w := by
  exact ⟨rfl, rfl, { wr .p 0 0 (wr .f 0 0 on) with lastGranted := .p }, { wr .p 0 0 on with lastGranted := .f },
    wr .p 0 0 on, rfl, rfl, rfl, rfl, rfl, rfl, rfl⟩

theorem test_StepKeepsTheInvariant_met : on.Inv ∧ step on = .next on := ⟨on_inv, rfl⟩

theorem test_MemoryUnchangedElsewhere_met :
    ∃ (s u : State) (x : Word), s.Inv ∧ exec (.otherWordWrite .p) s = .next u ∧
      s.storesAt (.otherWordWrite .p) ≠ some x :=
  ⟨wr .p 0x9000 7 on, _, 0x9001, (portsOnly_setPort _ _ _).inv on_inv, rfl, by decide +kernel⟩

theorem test_StrapClockAndStagedCopyKept_met :
    ∃ u, (∀ g, Instr.commit ≠ .hardwareReset g) ∧ exec .commit on = .next u ∧
      (∀ sh lk eop sync, Instr.commit ≠ .millisecondTick sh lk eop sync) ∧ Instr.commit ≠ .configurationWrite :=
  ⟨_, by nofun, rfl, by nofun, by nofun⟩

/-! ## The Write Guard -/

theorem test_NoUnsafeCloseReachesMemory_met :
    ∃ u, (wr .p 0x8000 2 fed).Inv ∧ exec .processorClose (wr .p 0x8000 2 fed) = .next u ∧
      (wr .p 0x8000 2 fed).hasRecord 0 = true ∧
      u.readImage ((wr .p 0x8000 2 fed).entry 0).command ≠
        (wr .p 0x8000 2 fed).readImage ((wr .p 0x8000 2 fed).entry 0).command ∧
      commandCode (u.readImage ((wr .p 0x8000 2 fed).entry 0).command) = some .cls ∧
      (wr .p 0x8000 2 fed).storesAt .processorClose = some ((wr .p 0x8000 2 fed).entry 0).command :=
  ⟨_, (portsOnly_setPort _ _ _).inv fed_inv, rfl, rfl, by decide +kernel, by decide +kernel, by decide +kernel⟩

/-- The selector held for a parallel close of D1 by X0, with leave. -/
def parallelling : State :=
  { owned 1 (.context 0) (runs 0 (fun c => { c with phase := .closingParallel, routeDevice := some 1 }) fed) with
    sync :=
      { hold := some { context := 0, running := 0, target := 1, filter := ⟨true, 0, false⟩, settle := none, window := 9 },
        claims := [], due := [] } }

theorem test_CloseIsCheckedInOrder_met :
    ((owned 1 (.context 0) fed).device 1).owner = .context 0 ∧
    (∃ s : State, (s.device 3).owner = .emergency ∧ s.latch.isSet = true ∧ (s.entry 3).emergencyOpen = true) ∧
    (∃ s : State, (s.device 0).owner = .processor ∧ ¬(s.latch.isSet = true ∧ (s.entry 0).emergencyOpen = true) ∧
      s.deviceLocked 0 = true) ∧
    ((fed.device 1).owner = .processor ∧ ¬(fed.latch.isSet = true ∧ (fed.entry 1).emergencyOpen = true) ∧
      fed.deviceLocked 1 = false ∧ fed.wouldParallel 1 = true ∧ fed.exempt .processorWrite 1 = false) ∧
    ((parallelling.device 1).owner = .context 0 ∧ parallelling.latch.isSet = false ∧
      parallelling.deviceLocked 1 = false ∧ parallelling.wouldParallel 1 = true ∧
      parallelling.exempt (.injection (.context 0)) 1 = true) ∧
    ((fed.device 0).owner = .processor ∧ fed.latch.isSet = false ∧ fed.deviceLocked 0 = false ∧
      fed.wouldParallel 0 = false) := by
  refine ⟨by decide +kernel, ⟨owned 3 .emergency { on with latch := { on.latch with isSet := true } }, ?_⟩,
    ⟨{ fed with locks := Four.fill { Filter.low with level := true } }, ?_⟩, ?_, ?_, ?_⟩ <;> decide +kernel

theorem test_MalformedCommandIsRefused_met :
    (owned 1 (.context 0) fed).judge .processorWrite 1 (some .cls) = .defer ∧
    ∃ s t : State, s.grantsWrite .p ⟨.write, 0x8000, 3⟩ ∧ s.granted .p = t ∧ t.classify 0x8000 = .command 0 ∧
      commandCode 3 = none ∧ t.steady ∧ t.slotUnmarked :=
  ⟨by decide +kernel, wr .p 0x8000 3 fed, _, grants_of (by decide +kernel), rfl, by decide +kernel, by decide +kernel,
    steady_of (by decide +kernel), rfl⟩

/-- A command that waits to be injected. -/
def inject (d : DevId) (code : Cmd) (owner : Enqueuer) (s : State) : State :=
  { s with injections := [{ device := d, code := code, tag := 5, owner := owner }] }

theorem test_OpenAlwaysPasses_met :
    (on.commandReaches 0 .opn 3 true).countedClosed 1 = true ∧
    (∃ s t : State, s.grantsWrite .p ⟨.write, 0x8000, 1⟩ ∧ s.granted .p = t ∧ t.classify 0x8000 = .command 0 ∧
      commandCode 1 = some .opn) ∧
    ((inject 0 .opn .emergency fed).grantsWriteBack ∧
      (inject 0 .opn .emergency fed).injections = [⟨0, .opn, 5, .emergency⟩]) ∧
    ((rd .f 0x8000 (inject 0 .opn .emergency fed)).grantsCommandRead ⟨.read, 0x8000, 0⟩ 0 ∧
      (rd .f 0x8000 (inject 0 .opn .emergency fed)).queued 0 = some ⟨0, .opn, 5, .emergency⟩) :=
  ⟨by decide +kernel, ⟨wr .p 0x8000 1 fed, _, grants_of (by decide +kernel), rfl, by decide +kernel, by decide +kernel⟩,
    ⟨show State.nextGrant _ = _ by decide +kernel, rfl⟩, reads_of (by decide +kernel), by decide +kernel⟩

/-! ## Commands that the processor writes -/

theorem test_ProcessorCommandIsTaken_met :
    (meets .p 0x8000 1 (.command 0) fed ∧ commandCode 1 = some .opn ∧ (gr .p 0x8000 1 fed).ownedByNoContext 0 ∧
      ((gr .p 0x8000 1 fed).device 0).pending = false) ∧
    meets .p 0x8000 2 (.command 0) fed ∧ commandCode 2 = some .cls ∧ (gr .p 0x8000 2 fed).ownedByNoContext 0 ∧
      (gr .p 0x8000 2 fed).latch.isSet = false ∧ (gr .p 0x8000 2 fed).deviceLocked 0 = false ∧
      (gr .p 0x8000 2 fed).wouldParallel 0 = false ∧ ((gr .p 0x8000 2 fed).device 0).pending = false := by
  decide +kernel

/-- D0 with a command that nobody has taken. -/
def pendingD0 : State := fed.updDevice 0 fun x => { x with pending := true }

theorem test_OverrunIsFramed_met :
    ∀ c : Cmd, ∃ s t : State, s.grantsWrite .p ⟨.write, 0x8000, commandWord c 0 0⟩ ∧ s.granted .p = t ∧
      t.classify 0x8000 = .command 0 ∧ commandCode (commandWord c 0 0) = some c ∧
      t.judge .processorWrite 0 (some c) = .pass false ∧ t.ownedByNoContext 0 ∧ (t.device 0).pending = true ∧ t.steady ∧
      t.slotUnmarked := fun c =>
  match c with
  | .opn => ⟨wr .p 0x8000 1 pendingD0, _, grants_of (by decide +kernel), rfl, by decide +kernel, by decide +kernel,
      by decide +kernel, show State.ownerContext _ _ = _ by decide +kernel, by decide +kernel,
      steady_of (by decide +kernel), rfl⟩
  | .cls => ⟨wr .p 0x8000 2 pendingD0, _, grants_of (by decide +kernel), rfl, by decide +kernel, by decide +kernel,
      by decide +kernel, show State.ownerContext _ _ = _ by decide +kernel, by decide +kernel,
      steady_of (by decide +kernel), rfl⟩

theorem test_OverrunIsFramed_injection_met :
    ((inject 0 .cls .emergency pendingD0).grantsWriteBack ∧
      (inject 0 .cls .emergency pendingD0).writeBackGranted.judge (.injection .emergency) 0 (some .cls) = .pass false ∧
      (inject 0 .cls .emergency pendingD0).writeBackGranted.ownedByNoContext 0 ∧
      ((inject 0 .cls .emergency pendingD0).writeBackGranted.device 0).pending = true ∧
      (inject 0 .cls .emergency pendingD0).writeBackGranted.steady ∧
      (inject 0 .cls .emergency pendingD0).writeBackGranted.slotUnmarked) ∧
    (rd .f 0x8000 (inject 0 .cls .emergency pendingD0)).grantsCommandRead ⟨.read, 0x8000, 0⟩ 0 ∧
      (rd .f 0x8000 (inject 0 .cls .emergency pendingD0)).serveReads.queued 0 = some ⟨0, .cls, 5, .emergency⟩ ∧
      (rd .f 0x8000 (inject 0 .cls .emergency pendingD0)).serveReads.image.wf = true ∧
      (rd .f 0x8000 (inject 0 .cls .emergency pendingD0)).serveReads.steady := by
  decide +kernel

theorem test_ProcessorCloseIsHeldBack_met :
    (meets .p 0x8000 2 (.command 0) (owned 0 (.context 2) fed) ∧ commandCode 2 = some .cls ∧
      ((gr .p 0x8000 2 (owned 0 (.context 2) fed)).device 0).owner = .context 2 ∧
      (gr .p 0x8000 2 (owned 0 (.context 2) fed)).slotUnmarked) ∧
    meets .p 0x8010 2 (.command 1) fed ∧
      (gr .p 0x8010 2 fed).judge .processorWrite 1 (some .cls) = .refuse .parallel ∧ (gr .p 0x8010 2 fed).slotUnmarked := by
  decide +kernel

/-! ## The other writes, frames, report words -/

theorem test_PlainWritesAreStored_met :
    meets .p 0x00FF 7 (.configuration 0xFF) on ∧ meets .p 0x0240 7 .other on ∧ meets .f 0x1000 7 .other on ∧
      inGuardPage (gr .f 0x1000 7 on).store.page 0x1000 = false ∧ meets .p 0x0100 8 (.control 0x100) on ∧
      field 8 0 3 = 0 := by
  decide +kernel

theorem test_WritesRefusedOutright_met :
    (∃ s t : State, s.grantsWrite .p ⟨.write, 0x8001, 0⟩ ∧ s.granted .p = t ∧ t.classify 0x8001 = .position 0 ∧
      t.steady ∧ t.slotUnmarked) ∧
    (∃ s t : State, s.grantsWrite .f ⟨.write, 0x8000, 1⟩ ∧ s.granted .f = t ∧ t.classify 0x8000 = .command 0 ∧
      t.steady ∧ t.slotUnmarked) ∧
    ∃ s t : State, s.grantsWrite .f ⟨.write, 0x0FFF, 1⟩ ∧ s.granted .f = t ∧ inGuardPage t.store.page 0x0FFF = true ∧
      t.steady ∧ t.slotUnmarked :=
  ⟨⟨wr .p 0x8001 0 fed, _, grants_of (by decide +kernel), rfl, by decide +kernel, steady_of (by decide +kernel), rfl⟩,
    ⟨wr .f 0x8000 1 fed, _, grants_of (by decide +kernel), rfl, by decide +kernel, steady_of (by decide +kernel), rfl⟩,
    ⟨wr .f 0x0FFF 1 fed, _, grants_of (by decide +kernel), rfl, by decide +kernel, steady_of (by decide +kernel), rfl⟩⟩

theorem test_RaisedFrameTakesItsSlot_met :
    State.reset.recorder.log.wf = true ∧ State.reset.store.working = none ∧ on.store.working = some plant ∧
    (∀ m, (⟨false, true, false, false⟩ : FourSet).get m = true ↔ m = 1) ∧
    (∀ n : SrcId, ¬∀ m, FourSet.none.get m = true ↔ m = n) ∧ on.kindOf 2 = .tie 0 ∧ on.kindOf 5 = .tie 2 := by
  decide +kernel

/-- X0 is ENDING, waiting on slot 0, of which one word is still dirty. -/
def endingX0 : State :=
  let s := runs 0 (fun c => { c with state := .ending, phase := .ending }) fed
  { s with recorder := { s.recorder with marks := s.recorder.marks.set 0 (some 0) }, dirty := [0x407] }

theorem test_MarkedSlotFreesItsContext_met :
    (∃ s t : State, s.grantsWriteBack ∧ s.writeBackGranted = t ∧ t.injections = [] ∧ t.dirty = [0x407] ∧ t.steady ∧
      t.waitingOn (slotAt 0x407) = some 0 ∧ (∀ x ∈ slotOffsets (slotAt 0x407), x ≠ 0x407 → x ∉ t.dirty) ∧ t.queue = [] ∧
      t.store.pendingCopy = none) ∧
    (∃ s t : State, s.grantsWrite .p ⟨.write, 0x0407, 9⟩ ∧ s.granted .p = t ∧ t.classify 0x0407 = .report 0x407 ∧
      t.steady ∧ t.waitingOn (slotAt 0x407) = some 0 ∧ (∀ x ∈ slotOffsets (slotAt 0x407), x ≠ 0x407 → x ∉ t.dirty) ∧
      t.queue = [] ∧ t.store.pendingCopy = none) ∧
    ∃ s t : State, s.grantsWrite .f ⟨.write, 0x0000, 9⟩ ∧ s.granted .f = t ∧ inGuardPage t.store.page 0 = true ∧
      t.steady ∧ t.waitingOn t.recorder.index = some 0 ∧ t.queue = [] ∧ t.store.pendingCopy = none :=
  ⟨⟨endingX0, _, show State.nextGrant _ = _ by decide +kernel, rfl, by decide +kernel, by decide +kernel,
      steady_of (by decide +kernel), by decide +kernel, by decide +kernel, by decide +kernel, by decide +kernel⟩,
    ⟨wr .p 0x0407 9 endingX0, _, grants_of (by decide +kernel), rfl, by decide +kernel, steady_of (by decide +kernel),
      by decide +kernel, by decide +kernel, by decide +kernel, by decide +kernel⟩,
    ⟨wr .f 0 9 endingX0, _, grants_of (by decide +kernel), rfl, by decide +kernel, steady_of (by decide +kernel),
      by decide +kernel, by decide +kernel, by decide +kernel⟩⟩

/-- The same with a copy that waits, and with a request that waits and can be taken in closed transition. -/
def endingWithCopy : State := { endingX0 with store := { endingX0.store with pendingCopy := some [] } }
def closedRequest : Request :=
  { lead := 0, set := Four.fill true, kind := .manual, transition := .closed, target := some (.source 1), cause := none,
    offered := 0x23 }
def endingWithRequest : State :=
  { endingX0 with
    sources := Four.fill { Source.reset with state := .available }, queue := [closedRequest] }

theorem test_MarkedSlotFreesItsContext_waiting_met :
    (endingWithCopy.grantsWriteBack ∧ endingWithCopy.writeBackGranted.steady ∧
      endingWithCopy.writeBackGranted.waitingOn (slotAt 0x407) = some 0 ∧ endingWithCopy.queue = [] ∧
      (∀ j, j ≠ 0 → (endingWithCopy.context j).state = .free) ∧ endingWithCopy.latch.isSet = false ∧
      ∀ b, (endingWithCopy.section b).state ≠ .armed) ∧
    endingWithRequest.grantsWriteBack ∧ endingWithRequest.writeBackGranted.steady ∧
      endingWithRequest.writeBackGranted.waitingOn (slotAt 0x407) = some 0 ∧ endingWithRequest.store.pendingCopy = none ∧
      closedRequest.lead = closedRequest.set.lowest ∧ endingWithRequest.returnSet 0 = closedRequest.set ∧
      endingWithRequest.manualBad closedRequest.set .closed (some (.source 1)) = false ∧
      endingWithRequest.fits 1 (endingWithRequest.setLoad closedRequest.set) = true ∧
      endingWithRequest.fedAvailable closedRequest.set = some 0 ∧
      ({ endingWithRequest with contexts := endingWithRequest.contexts.set 0 Context.blank } : State).nextFree = some 0 := by
  decide +kernel

theorem test_ReportWordsAreStored_met :
    (∃ s t : State, s.grantsWrite .p ⟨.write, 0x0400, 9⟩ ∧ s.granted .p = t ∧ t.classify 0x0400 = .report 0x400 ∧
      t.steady ∧ t.waitingOn (slotAt 0x400) = none) ∧
    (∃ s t : State, s.grantsWrite .p ⟨.write, 0x0406, 9⟩ ∧ s.granted .p = t ∧ t.classify 0x0406 = .report 0x406 ∧
      t.steady ∧ ∃ x ∈ slotOffsets (slotAt 0x406), x ≠ 0x406 ∧ x ∈ t.dirty) ∧
    ∃ (s t : State) (offs : List Nat), s.grantsWriteBack ∧ s.writeBackGranted = t ∧ t.injections = [] ∧
      t.dirty = 0x200 :: offs ∧ t.steady :=
  ⟨⟨wr .p 0x0400 9 fed, _, grants_of (by decide +kernel), rfl, by decide +kernel, steady_of (by decide +kernel), rfl⟩,
    ⟨wr .p 0x0406 9 endingX0, _, grants_of (by decide +kernel), rfl, by decide +kernel, steady_of (by decide +kernel),
      by decide +kernel⟩,
    ⟨fed, _, _, show State.nextGrant _ = _ by decide +kernel, rfl, by decide +kernel, rfl, steady_of (by decide +kernel)⟩⟩

theorem test_ClearingWritesStoreTheImage_met :
    meets .p 0x0202 1 (.report 0x202) fed ∧ meets .p 0x022F 0x700 (.report (0x220 + (15 : DevId).val)) fed := by
  decide +kernel

/-! ## Control words and manual requests -/

def latched (s : State) : State := { s with latch := { s.latch with isSet := true } }

/-- UNCONFIGURED, with one INCOMER staged. -/
def staging : State :=
  { State.reset with store := { State.reset.store with staged := [(0, 1), (1, 0x8000), (2, 0x8001)] } }

theorem test_CommitRejectsPendsOrApplies_met :
    (meets .p 0x0100 1 (.control 0x100) { on with store := { on.store with staged := [(0, 1)] } } ∧ field 1 0 3 = 1 ∧
      firstFailure 0 [(0, 1)] = some 1 ∧
      (gr .p 0x0100 1 { on with store := { on.store with staged := [(0, 1)] } }).slotUnmarked) ∧
    (meets .p 0x0100 1 (.control 0x100) (runs 0 id on) ∧ firstFailure 0 (runs 0 id on).store.staged = none ∧
      (gr .p 0x0100 1 (runs 0 id on)).allFree = false) ∧
    meets .p 0x0100 1 (.control 0x100) staging ∧ firstFailure 0 staging.store.staged = none ∧
      staging.store.working = none ∧ (gr .p 0x0100 1 staging).allFree = true ∧ staging.latch.isSet = false ∧
      staging.queue = [] ∧ (∀ b, (staging.section b).state = .disarmed) ∧ staging.settled ∧
      ((boardOf staging.store.staged).devices.get 0).kind ≠ .unused := by
  decide +kernel

/-- GUARDING on the plant; D0, the three ties and the feeder are staged again, D1 is not. -/
def applying : State :=
  { on with
    store := { on.store with
      staged := [(0, 1), (1, 0x8000), (2, 0x8001), (10, 2), (11, 0x8020), (12, 0x8021), (15, 0x103), (16, 0x8030),
        (17, 0x8031), (20, 6), (21, 0x8040), (22, 0x8041), (25, 10), (26, 0x8050), (27, 0x8051)] } }

/-- With B0 ARMED; and with a RETURN queued, S0 in PROVING. -/
def applyingArmed : State := inState 0 .armed applying
def applyingReturn : State :=
  { applying with
    sources := Four.fill { Source.reset with state := .proving },
    queue := [{ lead := 0, set := Four.fill true, kind := .return, transition := .opn, target := some (.source 1),
                cause := none, offered := 0 }] }

theorem test_ApplicationOverAGuardingBoard_met :
    firstFailure 0 applying.store.staged = none ∧
    (meets .p 0x0100 1 (.control 0x100) (latched applying) ∧ (latched applying).guarding = true ∧
      (gr .p 0x0100 1 (latched applying)).allFree = true ∧ (∀ b, (applying.section b).state ≠ .armed) ∧
      (latched applying).seizes (boardOf applying.store.staged) 3 ∧
      (done .commit (wr .p 0x0100 1 (latched applying))).countedClosed 3 = true ∧
      ¬(applying.entry 1).sameRecord ((boardOf applying.store.staged).devices.get 1)) ∧
    (meets .p 0x0100 1 (.control 0x100) applyingArmed ∧ (∀ b, (applyingArmed.section b).state ≠ .transferring) ∧
      ∀ b, (applyingArmed.section b).state = .armed →
        (done .commit (wr .p 0x0100 1 applyingArmed)).needsSupply
            ((done .commit (wr .p 0x0100 1 applyingArmed)).island b) = true ∧
          ∃ c, ((done .commit (wr .p 0x0100 1 applyingArmed)).island b).get c = true ∧
            (applyingArmed.section c).state = .disarmed) ∧
    meets .p 0x0100 1 (.control 0x100) applyingReturn ∧ (∀ b, applyingReturn.isLocked b = false) ∧
      (done .commit (wr .p 0x0100 1 applyingReturn)).fedAvailable
          ((done .commit (wr .p 0x0100 1 applyingReturn)).returnSet 0) = none ∧
      (done .commit (wr .p 0x0100 1 applyingReturn)).nothingToEvaluate := by
  and_intros <;> decide +kernel

theorem test_RestartFreesEverything_met :
    (∃ s t : State, s.grantsWrite .p ⟨.write, 0x0100, 2⟩ ∧ s.granted .p = t ∧ t.classify 0x0100 = .control 0x100 ∧
      field 2 0 3 = 2 ∧ t.guarding = true ∧ t.store.pendingCopy = none) ∧
    ∃ s t : State, s.grantsWrite .p ⟨.write, 0x0100, 2⟩ ∧ s.granted .p = t ∧ t.classify 0x0100 = .control 0x100 ∧
      t.guarding = false ∧ t.steady :=
  ⟨⟨wr .p 0x0100 2 fed, _, grants_of (by decide +kernel), rfl, by decide +kernel, by decide +kernel, by decide +kernel,
      by decide +kernel⟩,
    ⟨wr .p 0x0100 2 State.reset, _, grants_of (by decide +kernel), rfl, by decide +kernel, by decide +kernel,
      steady_of (by decide +kernel)⟩⟩

theorem test_RestartFreesEverything_copy_met :
    meets .p 0x0100 2 (.control 0x100) { fed with store := { fed.store with pendingCopy := some [] } } ∧
      fed.guarding = true ∧ fed.latch.isSet = false := by
  decide +kernel

theorem test_EopClearReturnsDevices_met :
    (∃ s t : State, s.grantsWrite .p ⟨.write, 0x0100, 4⟩ ∧ s.granted .p = t ∧ t.classify 0x0100 = .control 0x100 ∧
      field 4 0 3 = 4 ∧ t.guarding = true ∧ t.latch.isSet = true ∧ t.queue = [] ∧ t.steady) ∧
    (∃ s t : State, s.grantsWrite .p ⟨.write, 0x0100, 4⟩ ∧ s.granted .p = t ∧ t.classify 0x0100 = .control 0x100 ∧
      t.guarding = false ∧ t.steady) ∧
    ∃ s t : State, s.grantsWrite .p ⟨.write, 0x0100, 4⟩ ∧ s.granted .p = t ∧ t.classify 0x0100 = .control 0x100 ∧
      t.latch.isSet = false ∧ t.steady :=
  ⟨⟨wr .p 0x0100 4 (latched fed), _, grants_of (by decide +kernel), rfl, by decide +kernel, by decide +kernel,
      by decide +kernel, by decide +kernel, by decide +kernel, steady_of (by decide +kernel)⟩,
    ⟨wr .p 0x0100 4 State.reset, _, grants_of (by decide +kernel), rfl, by decide +kernel, by decide +kernel,
      steady_of (by decide +kernel)⟩,
    ⟨wr .p 0x0100 4 fed, _, grants_of (by decide +kernel), rfl, by decide +kernel, by decide +kernel,
      steady_of (by decide +kernel)⟩⟩

theorem test_GeneralControlBitsActInOrder_met :
    (wr .p 0x0100 7 on).Inv ∧ (∃ u, exec .commit ((wr .p 0x0100 7 on).offering ⟨.write, 0x0100, 7⟩ 1) = .next u) ∧
      ((wr .p 0x0100 7 on).grantsWrite .p ⟨.write, 0x0100, 7⟩ ∧ (gr .p 0x0100 7 on).classify 0x0100 = .control 0x100 ∧
        (7 : Word).getLsbD 0 = true ∧ (7 : Word).getLsbD 1 = true ∧ (7 : Word).getLsbD 2 = true) ∧
    (wr .p 0x0100 6 on).Inv ∧ (∃ u, exec .restart ((wr .p 0x0100 6 on).offering ⟨.write, 0x0100, 6⟩ 2) = .next u) ∧
      (wr .p 0x0100 6 on).grantsWrite .p ⟨.write, 0x0100, 6⟩ ∧ (gr .p 0x0100 6 on).classify 0x0100 = .control 0x100 ∧
        field 6 0 3 = 6 :=
  ⟨(portsOnly_setPort _ _ _).inv on_inv, ⟨_, rfl⟩, by decide +kernel, (portsOnly_setPort _ _ _).inv on_inv, ⟨_, rfl⟩,
    by decide +kernel, by decide +kernel, by decide +kernel⟩

theorem test_ArmActsOnNamedSections_met :
    (∃ s t : State, s.grantsWrite .p ⟨.write, 0x0101, 15⟩ ∧ s.granted .p = t ∧ t.classify 0x0101 = .control 0x101 ∧
      t.guarding = true ∧ t.latch.isSet = false ∧ (∀ b, (t.section b).state ≠ .lockout) ∧ t.nothingToEvaluate ∧
      t.steady) ∧
    (∃ s t : State, s.grantsWrite .p ⟨.write, 0x0101, 8⟩ ∧ s.granted .p = t ∧ t.classify 0x0101 = .control 0x101 ∧
      namedSections 8 = [3] ∧ (t.section 3).state = .lockout ∧ t.steady ∧ t.slotUnmarked) ∧
    (∃ s t : State, s.grantsWrite .p ⟨.write, 0x0101, 1⟩ ∧ s.granted .p = t ∧ t.classify 0x0101 = .control 0x101 ∧
      namedSections 1 = [0] ∧ (t.section 0).state = .held ∧ t.latch.isSet = true ∧ t.steady ∧ t.slotUnmarked) ∧
    ∃ s t : State, s.grantsWrite .p ⟨.write, 0x0101, 1⟩ ∧ s.granted .p = t ∧ t.classify 0x0101 = .control 0x101 ∧
      (t.section 0).state = .disarmed ∧ t.guarding = false ∧ t.steady ∧ t.slotUnmarked :=
  ⟨⟨wr .p 0x0101 15 on, _, grants_of (by decide +kernel), rfl, by decide +kernel, by decide +kernel, by decide +kernel,
      by decide +kernel, ⟨by decide +kernel, by decide +kernel⟩, steady_of (by decide +kernel)⟩,
    ⟨wr .p 0x0101 8 (inState 3 .lockout on), _, grants_of (by decide +kernel), rfl, by decide +kernel, by decide +kernel,
      by decide +kernel, steady_of (by decide +kernel), rfl⟩,
    ⟨wr .p 0x0101 1 (latched (inState 0 .held on)), _, grants_of (by decide +kernel), rfl, by decide +kernel,
      by decide +kernel, by decide +kernel, by decide +kernel, steady_of (by decide +kernel), rfl⟩,
    ⟨wr .p 0x0101 1 State.reset, _, grants_of (by decide +kernel), rfl, by decide +kernel, by decide +kernel,
      by decide +kernel, steady_of (by decide +kernel), rfl⟩⟩

theorem test_ArmActsOnNamedSections_mixed_met :
    meets .p 0x0101 9 (.control 0x101) (inState 3 .lockout on) ∧ (inState 3 .lockout on).nothingToEvaluate ∧
      (inState 3 .lockout on).noMarks ∧ meets .p 0x0101 9 (.control 0x101) (latched on) ∧ (latched on).noMarks ∧
      (latched on).latch.isSet = true := by
  decide +kernel

/-- A request for all sections, led by B0. -/
def request : Request :=
  { lead := 0, set := Four.fill true, kind := .supply, transition := .opn, target := none, cause := none, offered := 0 }

def queuedB0 (s : State) : State := { inState 0 .queued s with queue := [request] }

theorem test_DisarmActsOnNamedSections_met :
    (∃ s t : State, s.grantsWrite .p ⟨.write, 0x0102, 9⟩ ∧ s.granted .p = t ∧ t.classify 0x0102 = .control 0x102 ∧
      t.guarding = true ∧ (∀ b, (t.section b).state ≠ .queued ∧ (t.section b).state ≠ .transferring) ∧ t.steady) ∧
    (∃ s t : State, s.grantsWrite .p ⟨.write, 0x0102, 1⟩ ∧ s.granted .p = t ∧ t.classify 0x0102 = .control 0x102 ∧
      t.guarding = true ∧ namedSections 1 = [0] ∧ (t.section 0).state = .queued ∧ t.requestOf 0 = some request ∧
      t.nothingToEvaluate ∧ t.steady) ∧
    ∃ s t : State, s.grantsWrite .p ⟨.write, 0x0102, 9⟩ ∧ s.granted .p = t ∧ t.classify 0x0102 = .control 0x102 ∧
      t.guarding = false ∧ t.steady :=
  ⟨⟨wr .p 0x0102 9 (inState 0 .armed (inState 3 .held on)), _, grants_of (by decide +kernel), rfl, by decide +kernel,
      by decide +kernel, by decide +kernel, steady_of (by decide +kernel)⟩,
    ⟨wr .p 0x0102 1 (queuedB0 on), _, grants_of (by decide +kernel), rfl, by decide +kernel, by decide +kernel,
      by decide +kernel, by decide +kernel, by decide +kernel, ⟨by decide +kernel, by decide +kernel⟩,
      steady_of (by decide +kernel)⟩,
    ⟨wr .p 0x0102 9 State.reset, _, grants_of (by decide +kernel), rfl, by decide +kernel, by decide +kernel,
      steady_of (by decide +kernel)⟩⟩

/-- X0 transfers B0 and B1. -/
def transferring (f : Context → Context) : State := inState 0 .transferring (inState 1 .transferring (runs 0 f fed))

theorem noMarks_of {s : State} (h : s.recorder.marks = Three.fill none) : s.noMarks := fun k => by
  rw [h]
  exact Three.get_fill none k

theorem test_DisarmEndsATransfer_met :
    ∃ s t : State, s.grantsWrite .p ⟨.write, 0x0102, 1⟩ ∧ s.granted .p = t ∧ t.classify 0x0102 = .control 0x102 ∧
      t.guarding = true ∧ namedSections 1 = [0] ∧ (t.section 0).state = .transferring ∧ t.holder 0 = some 0 ∧ t.steady ∧
      t.noMarks :=
  ⟨wr .p 0x0102 1 (transferring id), _, grants_of (by decide +kernel), rfl, by decide +kernel, by decide +kernel,
    by decide +kernel, by decide +kernel, by decide +kernel, steady_of (by decide +kernel), noMarks_of rfl⟩

/-- X0 on B0 and B1 owns the tie between them; B0 locks; it owns its route device D1; D0 trips, and leaves the board UNFED. -/
def splitting : State := owned 2 (.context 0) (transferring id)
def lockingB0 : State := { transferring id with locks := (transferring id).locks.set 0 ⟨false, 0, true⟩ }
def commanded : State := owned 1 (.context 0) (transferring fun c => { c with routeDevice := some 1 })

theorem test_DisturbancesEndATransfer_met :
    ((wr .f 0x8021 8 splitting).reports (gr .f 0x8021 8 splitting) ⟨.write, 0x8021, 8⟩ 2 .opened ∧
      (splitting.device 2).owner = .context 0 ∧ splitting.active 0 = true ∧
      splitting.tieInside 2 (splitting.context 0).set = true ∧ splitting.countedClosed 2 = true ∧
      (splitting.device 2).observed ≠ .opened ∧ splitting.steadyBut 0 ∧ splitting.noMarks ∧ splitting.noDeferred) ∧
    ((lockingB0.section 0).state = .transferring ∧ lockingB0.holder 0 = some 0 ∧ lockingB0.steadyBut 0 ∧
      lockingB0.noMarks ∧ lockingB0.noDeferred) ∧
    ((wr .p 0x8010 1 commanded).processorOpening (gr .p 0x8010 1 commanded) ⟨.write, 0x8010, 1⟩ 1 ∧
      (commanded.device 1).owner = .context 0 ∧ (commanded.context 0).phase = .closing ∧ commanded.steady ∧
      commanded.noMarks ∧ commanded.noDeferred) ∧
    meets .f 0x8001 12 (.position 0) (transferring id) ∧ (transferring id).ownedByNoContext 0 ∧
      (∀ j, (transferring id).active j = true ↔ j = 0) ∧
      (∀ x, ((transferring id).section x).state = .transferring ↔ ((transferring id).context 0).set.get x = true) ∧
      (done .positionWord (wr .f 0x8001 12 (transferring id))).supply 0 = .unfed ∧
      ∃ x, ((done .positionWord (wr .f 0x8001 12 (transferring id))).island 0).get x = true ∧
        ((transferring id).context 0).set.get x = true := by
  and_intros <;> decide +kernel

/-- X0 of a phase owns D0, the incomer of its old source, or the feeder D3; the processor opens it. -/
def operated (d : DevId) (f : Context → Context) : State :=
  owned d (.context 0) (transferring fun c => f { c with oldSources := ⟨true, false, false, false⟩ })
abbrev operates (d : DevId) (a : Word) (s : State) : Prop :=
  (wr .p a 1 s).processorOpening (gr .p a 1 s) ⟨.write, a, 1⟩ d ∧ ((gr .p a 1 s).device d).owner = .context 0 ∧
    (gr .p a 1 s).active 0 = true ∧ (gr .p a 1 s).tieInside d (s.context 0).set = false ∧ (gr .p a 1 s).steady ∧
    ((gr .p a 1 s).device d).observed ≠ .opened

theorem test_OperatorOpensACapturedDevice_met :
    operates 0 0x8000 (operated 0 fun c => { c with phase := .awaitSource }) ∧
    (operates 0 0x8000 (operated 0 fun c => { c with phase := .opening }) ∧ fed.incomerSource 0 = some 0) ∧
    operates 0 0x8000 (operated 0 fun c => { c with phase := .syncWait, claim := .waiting }) ∧
    operates 3 0x8030 (operated 3 fun c =>
      { c with phase := .restoring, restoreList := [3, 4], timer := some (.stagger, 9) }) := by
  and_intros <;> decide +kernel

theorem test_ReleaseTakesSectionsOutOfLockout_met :
    (∃ s t : State, s.grantsWrite .p ⟨.write, 0x0103, 15⟩ ∧ s.granted .p = t ∧ t.classify 0x0103 = .control 0x103 ∧
      t.guarding = true ∧ t.steady) ∧
    (∃ s t : State, s.grantsWrite .p ⟨.write, 0x0103, 15⟩ ∧ s.granted .p = t ∧ t.classify 0x0103 = .control 0x103 ∧
      t.guarding = false ∧ t.steady) ∧
    (∃ s : State, s.routeDeviceFor (s.context 0).set (.source 1) = some 1 ∧ (s.device 1).trip = true) ∧
    (State.reset.section 3).state = .disarmed :=
  ⟨⟨wr .p 0x0103 15 (inState 3 .lockout on), _, grants_of (by decide +kernel), rfl, by decide +kernel, by decide +kernel,
      steady_of (by decide +kernel)⟩,
    ⟨wr .p 0x0103 15 State.reset, _, grants_of (by decide +kernel), rfl, by decide +kernel, by decide +kernel,
      steady_of (by decide +kernel)⟩,
    ⟨on.updDevice 1 fun x => { x with trip := true }, by decide +kernel, by decide +kernel⟩, rfl⟩

/-- Every section ARMED and fed by S0, S1 AVAILABLE, a copy waiting. -/
def armed : State :=
  { fed with
    sections := Four.fill { state := .armed, borrow := none, withheld := DevSet.none },
    sources := Four.fill { Source.reset with state := .available },
    store := { fed.store with pendingCopy := some [] } }

theorem test_ManualRequestIsRefusedOrQueued_met :
    (∃ s t : State, s.grantsWrite .p ⟨.write, 0x0107, 0x20⟩ ∧ s.granted .p = t ∧
      t.classify 0x0107 = .control (0x104 + (3 : SecId).val) ∧ t.steady) ∧
    (∃ s t : State, s.grantsWrite .p ⟨.write, 0x0104, 0x01⟩ ∧ s.granted .p = t ∧
      t.classify 0x0104 = .control (0x104 + (0 : SecId).val) ∧ t.manualRefused 0 0x01 = true ∧ t.steady ∧
      t.slotUnmarked) ∧
    ∃ s t : State, s.grantsWrite .p ⟨.write, 0x0104, 0x21⟩ ∧ s.granted .p = t ∧
      t.classify 0x0104 = .control (0x104 + (0 : SecId).val) ∧ t.manualRefused 0 0x21 = false ∧ t.takingClosed ∧
      t.steady :=
  ⟨⟨wr .p 0x0107 0x20 armed, _, grants_of (by decide +kernel), rfl, by decide +kernel, steady_of (by decide +kernel)⟩,
    ⟨wr .p 0x0104 1 armed, _, grants_of (by decide +kernel), rfl, by decide +kernel, by decide +kernel,
      steady_of (by decide +kernel), rfl⟩,
    ⟨wr .p 0x0104 0x21 armed, _, grants_of (by decide +kernel), rfl, by decide +kernel, by decide +kernel,
      Or.inl (by decide +kernel), steady_of (by decide +kernel)⟩⟩

theorem test_ManualRequestGrounds_met :
    State.reset.guarding = false ∧ (latched fed).latch.isSet = true ∧ (on.returnSet 0).get 0 = true ∧
    (on.section 0).state ≠ .armed ∧ field 0x01 4 4 = 0 ∧ 6 < field 0x71 4 4 ∧ routeOf (field 0x51 4 4) = some .tieLeft ∧
    on.routeDeviceFor (on.returnSet 0) .tieLeft = none ∧ on.routeSource (on.returnSet 0) (.source 1) = some 1 ∧
    (on.source 1).state ≠ .available ∧ on.routeSource (on.returnSet 0) .tieLeft = none ∧
    on.routeDeviceFor (on.returnSet 0) (.source 1) = some 1 ∧ on.countedClosed 1 = true ∧ on.usableDevice 1 = false ∧
    ((owned 1 .emergency on).device 1).owner ≠ .processor ∧ (0x23 : Word).getLsbD 1 = true ∧
    (∀ f, on.setSupply (on.returnSet 0) ≠ .fed f) ∧ armed.manualRefused 0 0x21 = false ∧
    armed.manualRefused 0 0x23 = false := by
  decide +kernel

/-- Every section ARMED and fed by S0, S1 AVAILABLE, no copy waiting. -/
def ready : State := { armed with store := fed.store }

theorem test_RequestIsTaken_met :
    (meets .p 0x0104 0x21 (.control (0x104 + (0 : SecId).val)) ready ∧ ready.manualRefused 0 0x21 = false ∧
      meets .p 0x0104 0x23 (.control (0x104 + (0 : SecId).val)) ready ∧ ready.manualRefused 0 0x23 = false) ∧
    routeOf (field 0x21 4 4) = some (.source 1) ∧ ready.incomerOf 1 = some 1 ∧ ready.returnSet 0 = Four.fill true ∧
    ready.queue = [] ∧ ready.store.pendingCopy = none ∧ ready.latch.isSet = false ∧ ready.nextFree = some 0 ∧
    ready.fits 1 (ready.shedLoad (Four.fill true)) = true ∧ ready.fits 1 (ready.setLoad (Four.fill true)) = true ∧
    (∀ o, (ready.opens (ready.startsWith { closedRequest with transition := .opn, offered := 0x21 }) DevSet.none).get o =
      true → ready.captures { closedRequest with transition := .opn, offered := 0x21 } o = true) ∧
    DevSet.isEmpty (ready.opens (ready.startsWith { closedRequest with transition := .opn, offered := 0x21 })
      DevSet.none) = false := by
  decide +kernel

/-! ## The scanner and the injections -/

theorem test_CommandReadsAndInjections_met :
    ((rd .f 0x8000 fed).grantsCommandRead ⟨.read, 0x8000, 0⟩ 0 ∧ (rd .f 0x8000 fed).serveReads.queued 0 = none ∧
      (rd .f 0x8000 fed).serveReads.steady) ∧
    ((inject 0 .cls .emergency fed).grantsWriteBack ∧
      (inject 0 .cls .emergency fed).judge (.injection .emergency) 0 (some .cls) = .pass false) ∧
    ((inject 1 .cls .emergency fed).grantsWriteBack ∧
      (inject 1 .cls .emergency fed).judge (.injection .emergency) 1 (some .cls) = .refuse .parallel) ∧
    ((rd .f 0x8000 (inject 0 .cls .emergency fed)).grantsCommandRead ⟨.read, 0x8000, 0⟩ 0 ∧
      (rd .f 0x8000 (inject 0 .cls .emergency fed)).queued 0 = some ⟨0, .cls, 5, .emergency⟩ ∧
      fed.image.wf = true) ∧
    (rd .f 0x8010 (inject 1 .cls .emergency fed)).grantsCommandRead ⟨.read, 0x8010, 0⟩ 1 ∧
      (rd .f 0x8010 (inject 1 .cls .emergency fed)).queued 1 = some ⟨1, .cls, 5, .emergency⟩ := by
  decide +kernel

theorem test_InjectionIsTaken_met :
    (∃ s t : State, s.grantsWriteBack ∧ s.writeBackGranted = t ∧ t.injections = [⟨0, .cls, 5, .emergency⟩] ∧
      t.judge (.injection .emergency) 0 (some .cls) = .pass false ∧ t.ownedByNoContext 0 ∧
      (t.device 0).pending = false ∧ t.steady) ∧
    ∃ s t : State, s.grantsWriteBack ∧ s.writeBackGranted = t ∧ t.injections = [⟨1, .cls, 5, .emergency⟩] ∧
      t.judge (.injection .emergency) 1 (some .cls) = .refuse .parallel ∧ t.ownedByNoContext 1 ∧ t.steady ∧
      t.slotUnmarked :=
  ⟨⟨inject 0 .cls .emergency fed, _, show State.nextGrant _ = _ by decide +kernel, rfl, by decide +kernel,
      by decide +kernel, show State.ownerContext _ _ = _ by decide +kernel, by decide +kernel,
      steady_of (by decide +kernel)⟩,
    ⟨inject 1 .cls .emergency fed, _, show State.nextGrant _ = _ by decide +kernel, rfl, by decide +kernel,
      by decide +kernel, show State.ownerContext _ _ = _ by decide +kernel, steady_of (by decide +kernel), rfl⟩⟩

theorem test_PositionWordIsTaken_met :
    (meets .f 0x8011 8 (.position 1) fed ∧ positionOf 8 = (fed.device 1).observed ∧
      (8 : Word).getLsbD 2 = (fed.device 1).tripped ∧ (8 : Word).getLsbD 3 = (fed.device 1).available ∧
      (fed.device 1).op = .idle) ∧
    ((wr .f 0x8021 8 fed).reports (gr .f 0x8021 8 fed) ⟨.write, 0x8021, 8⟩ 2 .opened ∧
      (gr .f 0x8021 8 fed).ownedByNoContext 2 ∧ fed.kindOf 2 = .tie 0 ∧ (fed.device 2).observed ≠ .opened) ∧
    ((wr .f 0x8031 9 fed).reports (gr .f 0x8031 9 fed) ⟨.write, 0x8031, 9⟩ 3 .closed ∧
      (gr .f 0x8031 9 fed).ownedByNoContext 3 ∧ fed.kindOf 3 = .feeder 0 ∧ (fed.device 3).observed ≠ .closed) ∧
    (wr .f 0x8001 9 fed).reports (gr .f 0x8001 9 fed) ⟨.write, 0x8001, 9⟩ 0 .closed ∧ fed.steady := by
  decide +kernel

theorem test_TripIsFramedAndLocksOut_met :
    (∃ s t : State, s.grantsWrite .f ⟨.write, 0x8031, 15⟩ ∧ s.granted .f = t ∧ t.classify 0x8031 = .position 3 ∧
      t.kindOf 3 = .feeder 0 ∧ (15 : Word).getLsbD 2 = true ∧ (t.device 3).tripped = false ∧
      positionOf 15 = (t.device 3).observed ∧ (t.device 3).op = .idle ∧ t.ownedByNoContext 3 ∧ t.steady ∧
      t.slotUnmarked) ∧
    ∃ s t : State, s.grantsWrite .f ⟨.write, 0x8001, 12⟩ ∧ s.granted .f = t ∧ t.classify 0x8001 = .position 0 ∧
      t.kindOf 0 = .incomer 0 0 ∧ (12 : Word).getLsbD 2 = true ∧ (t.device 0).tripped = false ∧ t.ownedByNoContext 0 ∧
      t.board.responses.treatAsLoss = false ∧ t.noTransfer ∧ t.queue = [] ∧
      (∀ c, (t.section c).state ≠ .transferring) ∧ t.steady ∧ t.slotUnmarked :=
  ⟨⟨wr .f 0x8031 15 fed, _, grants_of (by decide +kernel), rfl, by decide +kernel, by decide +kernel, by decide +kernel,
      by decide +kernel, by decide +kernel, by decide +kernel, show State.ownerContext _ _ = _ by decide +kernel,
      steady_of (by decide +kernel), rfl⟩,
    ⟨wr .f 0x8001 12 fed, _, grants_of (by decide +kernel), rfl, by decide +kernel, by decide +kernel, by decide +kernel,
      by decide +kernel, show State.ownerContext _ _ = _ by decide +kernel, by decide +kernel, forContexts rfl rfl rfl,
      by decide +kernel, by decide +kernel, steady_of (by decide +kernel), rfl⟩⟩

/-- Every section ARMED and fed by S0; PROTECTION_TRIP holds TREAT_AS_LOSS. -/
def tripping : State :=
  { armed with
    store := { armed.store with
      working := some { plant with responses := { plant.responses with treatAsLoss := true } } } }

theorem test_TripIsFramedAndLocksOut_loss_met :
    (meets .f 0x8021 12 (.position 2) fed ∧ fed.kindOf 2 = .tie 0 ∧ (fed.device 2).tripped = false ∧
      fed.ownedByNoContext 2 ∧ fed.board.responses.treatAsLoss = false ∧ fed.noTransfer ∧ fed.slotUnmarked) ∧
    meets .f 0x8001 12 (.position 0) tripping ∧ tripping.kindOf 0 = .incomer 0 0 ∧
      tripping.board.responses.treatAsLoss = true ∧ tripping.takingClosed ∧ tripping.noTransfer ∧
      (∀ c, (tripping.section c).state ≠ .transferring) ∧
      (done .positionWord (wr .f 0x8001 12 tripping)).supply 0 = .unfed ∧
      ∀ c, ((done .positionWord (wr .f 0x8001 12 tripping)).island 0).get c = true →
        (tripping.section c).state = .armed ∧ tripping.isLocked c = false := by
  decide +kernel

/-! ## Sources -/

/-- S0 in a state, with its filter. -/
def source0 (f : Source → Source) (s : State) : State := s.setSource 0 (f (s.source 0))

theorem test_HealthLevelsTurn_met :
    (∃ s : State, (s.source 0).health.change = true ∧ (s.source 0).health.level = true ∧ s.steady ∧
      (s.source 0).state = .proving ∧ s.noTransfer) ∧
    (∃ s : State, (s.source 0).health.change = true ∧ (s.source 0).health.level = true ∧ s.steady ∧
      (s.source 0).state = .available) ∧
    (∃ s : State, (s.source 0).health.change = true ∧ (s.source 0).health.level = false ∧ s.steady ∧
      (s.source 0).state = .failed) ∧
    ∃ s : State, (s.source 0).health.change = true ∧ (s.source 0).health.level = false ∧ s.steady ∧ s.slotUnmarked ∧
      (s.source 0).state = .dip :=
  ⟨⟨source0 (fun x => { x with state := .proving, health := ⟨true, 0, true⟩ }) fed, rfl, rfl,
      steady_of (by decide +kernel), rfl, forContexts rfl rfl rfl⟩,
    ⟨source0 (fun x => { x with state := .available, health := ⟨true, 0, true⟩ }) fed, rfl, rfl,
      steady_of (by decide +kernel), rfl⟩,
    ⟨source0 (fun x => { x with health := ⟨false, 0, true⟩ }) fed, rfl, rfl, steady_of (by decide +kernel), rfl⟩,
    ⟨source0 (fun x => { x with state := .dip, health := ⟨false, 0, true⟩ }) fed, rfl, rfl,
      steady_of (by decide +kernel), rfl, rfl⟩⟩

theorem test_SourceTimersExpire_met :
    (∃ s : State, (s.source 0).state = .dip ∧ (s.source 0).ride = some s.ms ∧
      s.board.responses.lossTransfer = false ∧ s.noTransfer ∧ s.steady ∧ s.slotUnmarked) ∧
    ∃ s : State, (s.source 0).state = .proving ∧ (s.source 0).stab = some s.ms ∧
      s.board.responses.returnReturn = false ∧ s.noTransfer ∧ s.steady ∧ s.slotUnmarked :=
  ⟨⟨source0 (fun x => { x with state := .dip, ride := some 0 }) fed, rfl, rfl, by decide +kernel,
      forContexts rfl rfl rfl, steady_of (by decide +kernel), rfl⟩,
    ⟨source0 (fun x => { x with state := .proving, stab := some 0 }) fed, rfl, rfl, by decide +kernel,
      forContexts rfl rfl rfl, steady_of (by decide +kernel), rfl⟩⟩

/-- S0 feeds every section, all ARMED, and its ride-through expires; SOURCE_LOSS holds TRANSFER. -/
def losing : State :=
  source0 (fun x => { x with state := .dip, ride := some 0 })
    { armed with
      store := { armed.store with
        working := some { plant with responses := { plant.responses with lossTransfer := true } } } }

theorem test_SourceLossQueuesASupply_met :
    (losing.source 0).state = .dip ∧ (losing.source 0).ride = some losing.ms ∧
      losing.board.responses.lossTransfer = true ∧ losing.fedIslands 0 = [0] ∧
      (∀ c, (losing.island 0).get c = true → (losing.section c).state = .armed ∧ losing.isLocked c = false) ∧
      losing.queue = [] ∧ losing.takingClosed ∧ losing.noTransfer ∧ losing.steady ∧ losing.slotUnmarked :=
  ⟨rfl, rfl, by decide +kernel, by decide +kernel, by decide +kernel, rfl, Or.inl (by decide +kernel),
    forContexts rfl rfl rfl, steady_of (by decide +kernel), rfl⟩

/-- X0 of a phase on a target, S0 in DIP with its ride-through expiring, the others AVAILABLE. -/
def lossIn (d : DevId) (target : SrcId) (f : Context → Context) : State :=
  source0 (fun x => { x with state := .dip, ride := some 0 })
    (owned 0 (.context 0) (owned 1 (.context 0) (runs 0 (fun c =>
      f { c with target := some (.source target), routeDevice := some d })
      { fed with sources := Four.fill { Source.reset with state := .available } })))

abbrev loses (n : SrcId) (s : State) : Prop :=
  (s.source n).state = .dip ∧ (s.source n).ride = some s.ms ∧ s.board.responses.lossTransfer = false ∧
    (∀ j, s.active j = true ↔ j = 0) ∧ s.steady ∧ s.noMarks ∧ s.noDeferred

/-- X0 in SYNC_WAIT for the fixed target S1, S0 its old source. -/
def lossOfOld : State :=
  lossIn 1 1 fun c =>
    { c with phase := .syncWait, claim := .waiting, fixed := true, oldSources := ⟨true, false, false, false⟩ }

/-- The same of a phase, where it is S1 that is lost. -/
def lossOfS1 (f : Context → Context) : State :=
  { lossIn 1 1 f with
    sources := (Four.fill { Source.reset with state := .available }).set 1
      { Source.reset with state := .dip, ride := some 0 } }

theorem test_SourceLossInATransfer_met :
    loses 0 (lossIn 0 0 fun c => { c with phase := .opening, opening := DevSet.none.set 0 true }) ∧
    (loses 1 (lossOfS1 fun c => { c with phase := .syncWait, claim := .waiting }) ∧
      (done (.rideThroughExpiry 1) (lossOfS1 fun c =>
        { c with phase := .syncWait, claim := .waiting })).nothingToEvaluate) ∧
    (loses 1 (at_ 1 .closed (lossOfS1 fun c => { c with phase := .closingParallel })) ∧
      (at_ 1 .closed (lossOfS1 fun c => { c with phase := .closingParallel })).owns 0 1 = true ∧
      (at_ 1 .closed (lossOfS1 fun c => { c with phase := .closingParallel })).countedClosed 1 = true ∧
      (done (.rideThroughExpiry 1) (at_ 1 .closed (lossOfS1 fun c =>
        { c with phase := .closingParallel }))).nothingToEvaluate) ∧
    loses 0 lossOfOld ∧ lossOfOld.usable 0 false (.source 1) = true ∧ lossOfOld.incomerOf 1 = some 1 ∧
      (lossOfOld.context 0).excluded = [] ∧
      lossOfOld.ownsAll 0 (lossOfOld.opens (lossOfOld.context 0) ((lossOfOld.context 0).abandoned.set 1 false)) ∧
      DevSet.isEmpty (lossOfOld.opens (lossOfOld.context 0) ((lossOfOld.context 0).abandoned.set 1 false)) = false := by
  and_intros <;> decide +kernel

theorem test_SourceTimersExpire_run_met :
    (∃ s : State, (s.source 0).cool = some s.ms ∧ s.steady ∧ (s.source 0).demand = false) ∧
    (∃ s : State, s.Inv ∧ (s.sourceEntry 0).generator = true ∧ s.incomerClosed 0 = true) ∧
    ∃ s : State, s.Inv ∧ (s.sourceEntry 3).generator = false := by
  refine ⟨⟨source0 (fun x => { x with cool := some 0 }) fed, rfl, steady_of (by decide +kernel), rfl⟩,
    ⟨source0 (fun x => { x with demand := true }) (at_ 0 .closed fed), ?_, by decide +kernel, by decide +kernel⟩,
    ⟨on, on_inv, by decide +kernel⟩⟩
  refine ⟨⟨⟨by decide +kernel, by decide +kernel⟩, ⟨List.Pairwise.nil, fun e m => by cases m⟩,
    ⟨rfl, rfl, rfl, fun m h => by cases h⟩, ⟨?_, fun m h => by cases h⟩, ?_, fun h => by cases h⟩, rfl,
    fun off m nd => absurd m nd⟩
  · unfold Board.outside
    decide +kernel
  · unfold State.demandsMet
    decide +kernel

/-! ## Locks and devices -/

/-- The lock filter of B0 is to change. -/
def locking (level : Bool) (s : State) : State := { s with locks := s.locks.set 0 ⟨level, 0, true⟩ }

theorem test_LockLevelsTurn_met :
    (∃ s : State, (s.locks.get 0).change = true ∧ (s.locks.get 0).level = false ∧ s.steady ∧
      (s.section 0).state = .disarmed) ∧
    (∃ s : State, (s.locks.get 0).change = true ∧ (s.locks.get 0).level = false ∧ s.steady ∧
      (s.section 0).state = .queued ∧ s.requestOf 0 = some request) ∧
    ∃ s : State, (s.locks.get 0).change = true ∧ (s.locks.get 0).level = true ∧ s.steady ∧ s.nothingToEvaluate :=
  ⟨⟨locking false fed, rfl, rfl, steady_of (by decide +kernel), rfl⟩,
    ⟨locking false (queuedB0 fed), rfl, rfl, steady_of (by decide +kernel), rfl, by decide +kernel⟩,
    ⟨locking true on, rfl, rfl, steady_of (by decide +kernel), ⟨by decide +kernel, by decide +kernel⟩⟩⟩

theorem test_OperateDeadlineExpires_met :
    ∃ s : State, s.hasRecord 0 = true ∧ (s.device 0).op = .inProgress .cls s.ms ∧ s.ownedByNoContext 0 ∧ s.steady ∧
      s.slotUnmarked :=
  ⟨fed.updDevice 0 fun x => { x with op := .inProgress .cls 0 }, by decide +kernel, by decide +kernel,
    show State.ownerContext _ _ = _ by decide +kernel, steady_of (by decide +kernel), rfl⟩

theorem test_OperateDeadlineExpires_owned_met :
    ∀ c : Cmd, ((owned 0 (.context 2) fed).updDevice 0 fun x => { x with op := .inProgress c 0 }).hasRecord 0 = true ∧
      (((owned 0 (.context 2) fed).updDevice 0 fun x => { x with op := .inProgress c 0 }).device 0).owner = .context 2 ∧
      (fed.context 2).routeDevice = none ∧ (fed.context 2).restoring = none ∧ (fed.context 2).sent.get 0 = false ∧
      ((owned 0 (.context 2) fed).updDevice 0 fun x => { x with op := .inProgress c 0 }).steady ∧
      ((owned 0 (.context 2) fed).updDevice 0 fun x => { x with op := .inProgress c 0 }).slotUnmarked := fun c =>
  match c with
  | .opn => by decide +kernel
  | .cls => by decide +kernel

/-! ## Phase timers -/

/-- X0 of a phase, its target S1, whose incomer D1 it owns. -/
def toS1 (f : Context → Context) : State :=
  owned 1 (.context 0) (runs 0 (fun c => f { c with target := some (.source 1), routeDevice := some 1 }) fed)

/-- The same with every source AVAILABLE. -/
def toS1Ready (f : Context → Context) : State :=
  { toS1 f with sources := Four.fill { Source.reset with state := .available } }

def awaiting : State :=
  toS1 fun c => { c with phase := .awaitSource, awaited := some 0, timer := some (.startLimit, 0) }

/-- Every source AVAILABLE; or S1 alone, D0 then X0's too, closed or open; or none, and D1 not X0's. -/
def awaitingFed : State := { awaiting with sources := Four.fill { Source.reset with state := .available } }
def awaitingS1 (p : Position) : State :=
  at_ 0 p (owned 0 (.context 0)
    { awaiting with sources := awaiting.sources.set 1 { Source.reset with state := .available } })
def awaitingNone : State :=
  at_ 0 .opened (source0 (fun x => { x with demand := true }) (owned 1 .processor awaiting))

/-- X0 awaits S0 on the start limit that expires; the routes after S0 are S1 and the right tie. -/
abbrev startsOut (s : State) : Prop :=
  s.active 0 = true ∧ (s.context 0).phase = .awaitSource ∧ (s.context 0).timer = some (.startLimit, s.ms) ∧
    (s.context 0).awaited = some 0 ∧ (s.context 0).fixed = false ∧ s.steady ∧ (s.context 0).excluded = [] ∧
    (s.sectionEntry (s.context 0).lead).routes = [.source 0, .source 1, .tieRight]
def laterRoutes : List Route := [.source 1, .tieRight]

theorem test_StartLimitExpiryRunsSelect_met :
    (startsOut awaitingFed ∧ awaitingFed.fedAvailable (awaitingFed.context 0).set = some 0 ∧
      (awaitingFed.context 0).routeDevice = some 1 ∧ awaitingFed.countedClosed 1 = false ∧ awaitingFed.noDeferred ∧
      awaitingFed.noMarks ∧ awaitingFed.nothingToEvaluate) ∧
    (startsOut (awaitingS1 .closed) ∧ (awaitingS1 .closed).fedAvailable ((awaitingS1 .closed).context 0).set = none ∧
      laterRoutes.find? ((awaitingS1 .closed).usable 0 false) = some (.source 1) ∧
      (awaitingS1 .closed).routeDeviceFor ((awaitingS1 .closed).context 0).set (.source 1) = some 1 ∧
      (awaitingS1 .closed).ownsAll 0 ((awaitingS1 .closed).opens ((awaitingS1 .closed).context 0)
        (((awaitingS1 .closed).context 0).leaves 1)) ∧
      DevSet.isEmpty ((awaitingS1 .closed).opens ((awaitingS1 .closed).context 0)
        (((awaitingS1 .closed).context 0).leaves 1)) = false) ∧
    (startsOut (awaitingS1 .opened) ∧ (awaitingS1 .opened).fedAvailable ((awaitingS1 .opened).context 0).set = none ∧
      laterRoutes.find? ((awaitingS1 .opened).usable 0 false) = some (.source 1) ∧
      (awaitingS1 .opened).opens ((awaitingS1 .opened).context 0) (((awaitingS1 .opened).context 0).leaves 1) =
        DevSet.none ∧
      (awaitingS1 .opened).dead ((awaitingS1 .opened).context 0).set = true) ∧
    (startsOut awaiting ∧ awaiting.fedAvailable (awaiting.context 0).set = none ∧
      laterRoutes.find? (awaiting.usable 0 false) = none ∧ laterRoutes.findSome? (awaiting.awaitable 0) = some 1) ∧
    (startsOut awaitingNone ∧ awaitingNone.fedAvailable (awaitingNone.context 0).set = none ∧
      laterRoutes.find? (awaitingNone.usable 0 false) = none ∧
      laterRoutes.findSome? (awaitingNone.awaitable 0) = none ∧ awaitingNone.noDeferred ∧ awaitingNone.noMarks ∧
      (awaitingNone.sourceEntry 0).generator = true ∧ (awaitingNone.source 0).demand = true ∧
      awaitingNone.incomerClosed 0 = false) := by
  and_intros <;> decide +kernel

/-- X0 in OPENING on the route of S1, D0 its own and the OPEN of D0 in progress to a deadline. -/
def opening (at0 : Ms) (f : Context → Context) : State :=
  (owned 0 (.context 0) (toS1Ready fun c =>
    f { c with phase := .opening, opening := DevSet.none.set 0 true, sent := DevSet.none.set 0 true })).updDevice 0
      fun x => { x with op := .inProgress .opn at0 }

/-- The same of the feeder D3, D0 being open. -/
def openingD3 : State :=
  (at_ 0 .opened (owned 3 (.context 0) (toS1Ready fun c =>
    { c with phase := .opening, opening := DevSet.none.set 3 true, sent := DevSet.none.set 3 true }))).updDevice 3
      fun x => { x with op := .inProgress .opn 0 }

/-- The scanner reports D0 OPEN in OPENING. -/
abbrev opens0 (s : State) : Prop :=
  (wr .f 0x8001 8 s).reports (gr .f 0x8001 8 s) ⟨.write, 0x8001, 8⟩ 0 .opened ∧ (gr .f 0x8001 8 s).steady ∧
    ((gr .f 0x8001 8 s).device 0).owner = .context 0 ∧ ((gr .f 0x8001 8 s).device 0).op = .inProgress .opn 9 ∧
    (gr .f 0x8001 8 s).active 0 = true ∧ (s.context 0).phase = .opening ∧ (s.context 0).opening.get 0 = true ∧
    (s.context 0).sent.get 0 = true ∧ (gr .f 0x8001 8 s).tieInside 0 (s.context 0).set = false

theorem test_OpeningSettles_met :
    (opens0 (opening 9 fun c => { c with opening := Sixteen.fill true }) ∧
      DevSet.isEmpty ((Sixteen.fill true : DevSet).set 0 false) = false) ∧
    (opens0 (opening 9 id) ∧ DevSet.isEmpty (((opening 9 id).context 0).opening.set 0 false) = true ∧
      ((opening 9 id).context 0).failed = DevSet.none ∧ ((opening 9 id).context 0).reroute = false ∧
      (done .positionWord (wr .f 0x8001 8 (opening 9 id))).dead ((opening 9 id).context 0).set = true) ∧
    (opens0 (at_ 1 .closed (opening 9 id)) ∧ (at_ 1 .closed (opening 9 id)).noDeferred ∧
      (at_ 1 .closed (opening 9 id)).noMarks ∧
      (done .positionWord (wr .f 0x8001 8 (at_ 1 .closed (opening 9 id)))).dead ((opening 9 id).context 0).set = false) ∧
    (opens0 (opening 9 fun c => { c with reroute := true, excluded := [.source 0, .source 1, .tieRight] }) ∧
      (plant.sections.get 0).routes = [.source 0, .source 1, .tieRight] ∧
      (done .positionWord (wr .f 0x8001 8 (opening 9 fun c =>
        { c with reroute := true, excluded := [.source 0, .source 1, .tieRight] }))).fedAvailable
          ((opening 9 id).context 0).set = none) ∧
    ((opening 0 id).hasRecord 0 = true ∧ ((opening 0 id).device 0).op = .inProgress .opn (opening 0 id).ms ∧
      (opening 0 id).decides ((opening 0 id).context 0) 0 = true ∧ (opening 0 id).steady ∧ (opening 0 id).noMarks ∧
      (opening 0 id).noDeferred) ∧
    openingD3.hasRecord 3 = true ∧ (openingD3.device 3).op = .inProgress .opn openingD3.ms ∧
      (openingD3.device 3).owner = .context 0 ∧ openingD3.steady ∧ openingD3.noMarks ∧
      (∀ x, (((openingD3.context 0).failed.set 3 true).get x = true) → openingD3.decides (openingD3.context 0) x = false) ∧
      openingD3.dead (openingD3.context 0).set = true := by
  and_intros <;> decide +kernel

def deadWaiting : State := toS1Ready fun c => { c with phase := .deadWait, timer := some (.deadBus, 0) }

theorem test_DeadBusExpiryClosesTheRoute_met :
    deadWaiting.active 0 = true ∧ (deadWaiting.context 0).phase = .deadWait ∧
      (deadWaiting.context 0).timer = some (.deadBus, deadWaiting.ms) ∧
      (deadWaiting.context 0).target = some (.source 1) ∧
      deadWaiting.usableFor 0 false (deadWaiting.recheckLoad (deadWaiting.context 0)) (.source 1) = true ∧
      (deadWaiting.context 0).routeDevice = some 1 ∧ deadWaiting.owns 0 1 = true ∧ deadWaiting.settled ∧
      ∀ j, j ≠ 0 → ¬((deadWaiting.context j).state = .active ∧ (deadWaiting.context j).phase = .deadWait) :=
  ⟨by decide +kernel, by decide +kernel, by decide +kernel, by decide +kernel, by decide +kernel, by decide +kernel,
    by decide +kernel, rfl, by decide +kernel⟩

/-- X0 in CLOSING on the route of S1: the CLOSE of D1 queued, D0 open or closed; in progress; every route excluded. -/
def closingX0 (p : Position) : State :=
  at_ 0 p (inject 1 .cls (.context 0) (toS1Ready fun c =>
    { c with phase := .closing, excluded := [.source 0, .tieRight], shed := DevSet.none.set 3 true }))
def closingFailed : State := { closingX0 .closed with sources := Four.fill Source.reset }
def closingD1 (at0 : Ms) : State :=
  { closingX0 .opened with injections := [] }.updDevice 1 fun x => { x with op := .inProgress .cls at0 }

theorem test_RouteCloseCourse_met :
    ((closingX0 .opened).grantsWriteBack ∧ (closingX0 .opened).writeBackGranted.owns 0 1 = true ∧
      (closingX0 .opened).active 0 = true ∧ (closingX0 .opened).writeBackGranted.steady ∧
      (closingX0 .opened).writeBackGranted.judge (.injection (.context 0)) 1 (some .cls) = .pass false ∧
      ((closingX0 .opened).device 1).pending = false ∧ ((closingX0 .opened).device 1).observed ≠ .closed) ∧
    (closingFailed.grantsWriteBack ∧ closingFailed.writeBackGranted.steady ∧ closingFailed.owns 0 1 = true ∧
      closingFailed.writeBackGranted.judge (.injection (.context 0)) 1 (some .cls) = .refuse .parallel ∧
      (closingFailed.context 0).claim = .none ∧ closingFailed.noDeferred ∧ closingFailed.noMarks ∧
      closingFailed.noRouteLeft 0 (some (.source 1))) ∧
    ((wr .f 0x8011 9 (closingD1 9)).reports (gr .f 0x8011 9 (closingD1 9)) ⟨.write, 0x8011, 9⟩ 1 .closed ∧
      ((closingD1 9).device 1).owner = .context 0 ∧ ((closingD1 9).context 0).abandoned.get 1 = false ∧
      (∃ f, ((closingD1 9).context 0).shed.get f = true ∨ ((closingD1 9).context 0).carried.get f = true) ∧
      ∀ f, ((closingD1 9).entry f).priority < 8) ∧
    (closingD1 0).hasRecord 1 = true ∧ ((closingD1 0).device 1).op = .inProgress .cls (closingD1 0).ms ∧
      (closingD1 0).board.responses.nextRoute = false ∧ (closingD1 0).steady ∧ (closingD1 0).noMarks ∧
      (closingD1 0).noDeferred := by
  and_intros <;> decide +kernel

/-- X0 in RESTORING with the feeder D3 to restore. -/
def restoring : State :=
  at_ 3 .opened (owned 3 (.context 0)
    (toS1Ready fun c => { c with phase := .restoring, restoreList := [3], timer := some (.stagger, 0) }))

theorem test_StaggerExpiryTakesTheNextFeeder_met :
    (∃ s : State, s.active 0 = true ∧ (s.context 0).timer = some (.stagger, s.ms) ∧ (s.context 0).phase ≠ .restoring ∧
      s.steady) ∧
    restoring.active 0 = true ∧ (restoring.context 0).timer = some (.stagger, restoring.ms) ∧
      (restoring.context 0).phase = .restoring ∧ (restoring.context 0).restoring = none ∧
      (restoring.context 0).restoreList.drop (restoring.context 0).cursor = [3] ∧ restoring.owns 0 3 = true ∧
      (restoring.device 3).observed ≠ .closed ∧ restoring.usableDevice 3 = true ∧ restoring.feederFits 0 3 = true ∧
      restoring.steady :=
  ⟨⟨toS1 fun c => { c with timer := some (.stagger, 0) }, by decide +kernel, by decide +kernel, by decide +kernel,
      steady_of (by decide +kernel)⟩,
    by decide +kernel, by decide +kernel, by decide +kernel, by decide +kernel, by decide +kernel, by decide +kernel,
    by decide +kernel, by decide +kernel, by decide +kernel, steady_of (by decide +kernel)⟩

/-- X0 in RESTORING, its last feeder D3 passed over as it is closed; too large to fit; its CLOSE in progress. -/
def restored : State := at_ 3 .closed restoring
def restoringLarge : State :=
  { restoring with
    store := { restoring.store with
      working := some { plant with devices := plant.devices.set 3 { plant.devices.get 3 with demand := 200 } } } }
def restoringD3 : State :=
  restoring.updContext 0 (fun c => { c with restoring := some 3 }) |>.updDevice 3 fun x => { x with op := .inProgress .cls 9 }

theorem test_RestoreListEnds_met :
    (restored.active 0 = true ∧ (restored.context 0).timer = some (.stagger, restored.ms) ∧
      (restored.context 0).phase = .restoring ∧ (restored.context 0).restoring = none ∧ restored.passedOver 0 3 = true ∧
      restored.noDeferred ∧ restored.noMarks ∧ restored.nothingToEvaluate ∧ restored.steady) ∧
    (restoringLarge.active 0 = true ∧ restoringLarge.passedOver 0 3 = false ∧ restoringLarge.feederFits 0 3 = false ∧
      restoringLarge.noDeferred ∧ restoringLarge.noMarks ∧ restoringLarge.nothingToEvaluate ∧ restoringLarge.steady) ∧
    (wr .f 0x8031 9 restoringD3).reports (gr .f 0x8031 9 restoringD3) ⟨.write, 0x8031, 9⟩ 3 .closed ∧
      restoringD3.kindOf 3 = .feeder 0 ∧ (restoringD3.device 3).owner = .context 0 ∧ restoringD3.active 0 = true ∧
      (restoringD3.context 0).restoreList.length ≤ (restoringD3.context 0).cursor + 1 ∧
      (restoringD3.context 0).abandoned.get 3 = false ∧ restoringD3.noDeferred ∧ restoringD3.noMarks ∧
      restoringD3.nothingToEvaluate ∧ restoringD3.steady := by
  and_intros <;> decide +kernel

def overlapping : State :=
  toS1Ready fun c =>
    { c with phase := .openingOld, timer := some (.overlap, 0), oldSources := ⟨true, false, false, false⟩ }

theorem test_OverlapAndSyncWindowEndTheTransfer_met :
    overlapping.active 0 = true ∧ (overlapping.context 0).phase = .openingOld ∧
      (overlapping.context 0).timer = some (.overlap, overlapping.ms) ∧ (overlapping.context 0).routeDevice = some 1 ∧
      overlapping.owns 0 1 = true ∧ overlapping.oldDevice (overlapping.context 0) = some 0 ∧ overlapping.noDeferred ∧
      overlapping.noMarks ∧ overlapping.steady := by
  decide +kernel

/-- In OPENING_OLD a return waits with its reroute mark for an OPEN of the context's own, and else leaves at once (R143). -/
theorem test_openingOld_waits_for_own_open :
    let own := (owned 0 (.context 0) overlapping).command 0 .opn (some 0)
    ((rerouteTarget id 0 own).context 0).reroute = true ∧
      ((rerouteTarget id 0 own).context 0).phase = .openingOld ∧
      ((rerouteTarget id 0 overlapping).context 0).reroute = false ∧
      ((rerouteTarget id 0 overlapping).context 0).phase ≠ .openingOld := by
  and_intros <;> decide +kernel

/-- The old incomer trips open in OPENING_OLD and leaves the set UNFED: X0 ends TRIPPED, its sections in LOCKOUT, and no
request of theirs is queued (R104, R150). -/
theorem test_trip_in_openingOld_locks_out :
    let s := inState 0 .transferring (inState 1 .transferring (owned 0 (.context 0) overlapping))
    let u := done .positionWord (wr .f 0x8001 12 s)
    u.supply 0 = .unfed ∧ (u.context 0).result = some .tripped ∧ u.queue = [] ∧
      ∀ b : SecId, (u.section b).state = .lockout := by
  and_intros <;> decide +kernel

/-! ## The Sync Selector -/

/-- X0 in SYNC_WAIT, its claim the head of the queue, a grant open. -/
def claiming : State :=
  { toS1Ready fun c => { c with phase := .syncWait, claim := .waiting } with
    sync := { hold := none, claims := [0], due := [0] } }

theorem test_SyncGrantMakesTheHolder_met :
    0 ∈ claiming.sync.due ∧ claiming.sync.hold = none ∧ claiming.sync.claims = [0] ∧
      claiming.fedAvailable (claiming.context 0).set = some 0 ∧
      (claiming.context 0).target = some (.source 1) ∧ (0 : SrcId) ≠ 1 ∧ claiming.steady :=
  ⟨by decide +kernel, rfl, rfl, by decide +kernel, by decide +kernel, by decide, steady_of (by decide +kernel)⟩

/-- X0 holds the selector. -/
def holding (filter : Filter) (settle : Option Ms) : State :=
  { toS1Ready fun c => { c with phase := .syncWait, claim := .held } with
    sync := { hold := some { context := 0, running := 0, target := 1, filter := filter, settle := settle, window := 0 },
              claims := [], due := [] } }

theorem leaving_ready (filter : Filter) (settle : Option Ms) :
    (holding filter settle).active 0 = true ∧ ((holding filter settle).context 0).phase = .syncWait ∧
      (holding filter settle).closedCheck 0 = true ∧
      (holding filter settle).fedAvailable ((holding filter settle).context 0).set = some 0 ∧
      ((holding filter settle).context 0).routeDevice = some 1 ∧ (holding filter settle).owns 0 1 = true :=
  have h : (holding .low none).active 0 = true ∧ ((holding .low none).context 0).phase = .syncWait ∧
      (holding .low none).closedCheck 0 = true ∧
      (holding .low none).fedAvailable ((holding .low none).context 0).set = some 0 ∧
      ((holding .low none).context 0).routeDevice = some 1 ∧ (holding .low none).owns 0 1 = true := by
    decide +kernel
  h

theorem test_LeaveQueuesTheParallelClose_met :
    (∃ h, (holding ⟨false, 0, true⟩ none).sync.hold = some h ∧ (holding ⟨false, 0, true⟩ none).steady ∧
      h.filter.change = true ∧ h.settle = none ∧ h.filter.level = false) ∧
    (∃ h, (holding ⟨true, 0, true⟩ none).sync.hold = some h ∧ (holding ⟨true, 0, true⟩ none).steady ∧
      h.filter.change = true ∧ (!h.filter.level) = false) ∧
    (∃ h, (holding ⟨true, 0, false⟩ (some 0)).sync.hold = some h ∧ (holding ⟨true, 0, false⟩ (some 0)).steady ∧
      h.settle = some 0 ∧ h.filter.level = true) ∧
    ∃ h, (holding .low (some 0)).sync.hold = some h ∧ (holding .low (some 0)).steady ∧ h.settle = some 0 ∧
      h.filter.level = false :=
  ⟨⟨_, rfl, steady_of (by decide +kernel), rfl, rfl, rfl⟩, ⟨_, rfl, steady_of (by decide +kernel), rfl, rfl⟩,
    ⟨_, rfl, steady_of (by decide +kernel), rfl, rfl⟩, ⟨_, rfl, steady_of (by decide +kernel), rfl, rfl⟩⟩

theorem test_OverlapAndSyncWindowEndTheTransfer_window_met :
    (holding .low none).sync.hold ≠ none ∧ (holding .low none).ms = 0 ∧ (holding .low none).active 0 = true ∧
      ((holding .low none).context 0).phase = .syncWait ∧ (holding .low none).board.responses.openTransition = false ∧
      (holding .low none).noDeferred ∧ (holding .low none).noMarks ∧ (holding .low none).steady := by
  decide +kernel

/-! ## The Emergency Latch, time -/

/-- The filtered EOP level is to rise, and a rise is an edge. -/
def edge : State :=
  { fed with
    store := { fed.store with working := some { plant with eopRise := true } },
    latch := { fed.latch with filter := ⟨false, 0, true⟩, seed := .seeded } }

theorem test_EopLevelWithoutAnEdge_met :
    (∃ s : State, s.latch.filter.change = true ∧ s.isEdge (!s.latch.filter.level) = false ∧ s.steady) ∧
    (∃ s : State, s.latch.filter.change = true ∧ s.latch.isSet = true ∧ s.steady) ∧
    ∃ s : State, s.latch.seed = .due ∧ s.steady :=
  ⟨⟨{ fed with latch := { fed.latch with filter := ⟨false, 0, true⟩ } }, rfl, by decide +kernel,
      steady_of (by decide +kernel)⟩,
    ⟨latched edge, rfl, rfl, steady_of (by decide +kernel)⟩,
    ⟨{ fed with latch := { fed.latch with seed := .due } }, rfl, steady_of (by decide +kernel)⟩⟩

theorem test_EdgeSetsTheLatch_met :
    edge.latch.filter.change = true ∧ edge.isEdge (!edge.latch.filter.level) = true ∧ edge.latch.isSet = false ∧
    (edge.settled ∧ edge.slotUnmarked ∧ edge.noTransfer) ∧ (runs 0 id edge).noMarks ∧ (runs 0 id edge).active 0 = true ∧
    edge.store.pendingCopy = none ∧ edge.hasRecord 3 = true ∧ (edge.entry 3).emergencyOpen = true ∧
    (edge.device 3).owner ≠ .emergency ∧ edge.countedClosed 3 = true := by
  decide +kernel

theorem test_TickAdvancesAndSamples_met :
    (State.reset.leftEvents = State.reset ∧ State.reset.guarding = false) ∧
    fed.leftEvents = fed ∧ fed.guarding = true ∧ fed.sync.hold = none :=
  ⟨⟨by decide +kernel, rfl⟩, by decide +kernel, rfl, rfl⟩

theorem test_TickAdvancesAndSamples_filter_met :
    (true ≠ (⟨false, 6, false⟩ : Filter).level ∧ (⟨false, 6, false⟩ : Filter).count.toNat + 1 < 8) ∧
    8 ≤ (⟨false, 7, false⟩ : Filter).count.toNat + 1 ∧ 1 ≤ (⟨false, 0, false⟩ : Filter).count.toNat + 1 := by
  decide

theorem test_DurationsOfTimeFields_met :
    ((boardOf [(0, 3)]).devices.get 0).kind ≠ .unused ∧ duration 0 = 1 ∧ duration 0x3FF = 256000 := by
  decide +kernel

end Sys2Proof.Machine.Tests
end

section
/-! PROOFS. The Write Guard's judgement of malformed commands and of OPENs (R61, R62). First what a command word codes,
what a raised frame and a command reaching memory leave of the records, and what the plain reads ahead of a grant leave;
then the two statements, a lemma for each part that is about a row. -/

namespace Sys2Proof.Machine

/-! ## The code of a command word (12.1, R61, R177) -/

theorem field_lt (w : Word) (lo len : Nat) : field w lo len < 2 ^ len := (w.extractLsb' lo len).isLt

/-- The malformed codes are 00 and 11 (R61). -/
theorem commandCode_eq_none_iff (w : Word) : commandCode w = none ↔ field w 0 2 = 0 ∨ field w 0 2 = 3 := by
  have bound : field w 0 2 < 4 := field_lt w 0 2
  unfold commandCode
  split
  · next h => simp [h]
  · next h => simp [h]
  · next not_open not_close =>
    have not_open : field w 0 2 ≠ 1 := not_open
    have not_close : field w 0 2 ≠ 2 := not_close
    exact iff_of_true rfl (by omega)

/-- No bit of a word but its two lowest has a say in its code (R61). -/
theorem commandCode_congr {v w : Word} (h : field v 0 2 = field w 0 2) : commandCode v = commandCode w := by
  unfold commandCode
  rw [h]

/-- The origin and the tag of a stored command word stand above its code (R177). -/
theorem field_commandWord (code : Cmd) (origin : Nat) (tag : BitVec 4) :
    field (commandWord code origin tag) 0 2 = code.code := by
  have small : code.code < 4 := by cases code <;> decide
  simp only [field, commandWord, BitVec.extractLsb'_toNat, BitVec.toNat_ofNat, Nat.shiftRight_zero]
  omega

/-- A word that the SG-440 stores as a command is never malformed. -/
theorem commandCode_commandWord (code : Cmd) (origin : Nat) (tag : BitVec 4) :
    commandCode (commandWord code origin tag) = some code := by
  unfold commandCode
  rw [field_commandWord]
  cases code <;> rfl

/-! ## The judgement (R60) -/

theorem judge_malformed (s : State) (as : JudgedAs) (d : DevId) : s.judge as d none = .refuse .malformed := rfl

theorem judge_open (s : State) (as : JudgedAs) (d : DevId) : s.judge as d (some .opn) = .pass false := rfl

/-- A CLOSE alone is ever deferred (R63). -/
theorem eq_close_of_judge_defer {s : State} {as : JudgedAs} {d : DevId} {c : Option Cmd} (h : s.judge as d c = .defer) :
    c = some .cls := by
  match c, h with
  | some .cls, _ => rfl
  | some .opn, h => rw [judge_open] at h; cases h
  | none, h => rw [judge_malformed] at h; cases h

/-! ## What a frame and a command leave of the records -/

theorem reuseSlot_same (s : State) (i : Slot) :
    (s.reuseSlot i).store = s.store ∧ (s.reuseSlot i).devices = s.devices := by
  unfold State.reuseSlot
  split
  · unfold State.freeContext
    rw [markAll_eq]
    exact ⟨rfl, rfl⟩
  · exact ⟨rfl, rfl⟩

/-- A frame touches neither the working copy nor a device's record, whether its slot carries a mark or not. -/
theorem raise_same (s : State) (i : Incident) : (s.raise i).store = s.store ∧ (s.raise i).devices = s.devices := by
  obtain ⟨store, devices⟩ := reuseSlot_same s s.recorder.index
  unfold State.raise
  dsimp only
  rw [markAll_eq]
  exact ⟨store, devices⟩

theorem commandReaches_store (s : State) (d : DevId) (code : Cmd) (tag : BitVec 4) (pending : Bool) :
    (s.commandReaches d code tag pending).store = s.store := by
  unfold State.commandReaches
  dsimp only
  rw [State.updDevice_store]
  split
  · rw [(raise_same _ _).1, State.updDevice_store]
  · rfl

/-- The record of a device that a command has reached: its tag, its pending flag and its operation are the command's, and
the overrun flag is set where the command before was still pending (R39 to R42). -/
def State.commanded (s : State) (d : DevId) (code : Cmd) (tag : BitVec 4) (pending : Bool) : Device :=
  { s.device d with
    overrun := (s.device d).overrun || (s.device d).pending, tag := tag, pending := pending,
    op := s.startOperation d code }

/-- Of the records a command that reaches memory changes that of its device, and no other. -/
theorem commandReaches_devices (s : State) (d : DevId) (code : Cmd) (tag : BitVec 4) (pending : Bool) :
    (s.commandReaches d code tag pending).devices = s.devices.set d (s.commanded d code tag pending) := by
  unfold State.commandReaches State.commanded
  dsimp only
  split
  · next overrun =>
    simp only [State.updDevice_devices, State.device, (raise_same _ _).2, Sixteen.set_set, Sixteen.get_set_same]
    rw [show (s.devices.get d).pending = true from overrun, Bool.or_true]
  · next idle =>
    rw [State.updDevice_devices, Bool.eq_false_iff.2 idle, Bool.or_false]

/-- A device's counting closed rests on the working copy and on the position and the operation of its record (R5). -/
theorem countedClosed_congr {s t : State} {d : DevId} (store : t.store = s.store)
    (observed : (t.device d).observed = (s.device d).observed) (op : (t.device d).op = (s.device d).op) :
    t.countedClosed d = s.countedClosed d := by
  unfold State.countedClosed
  rw [hasRecord_of_store store, observed, op]

theorem startOperation_open_ne_close (s : State) (d : DevId) (deadline : Ms) :
    s.startOperation d .opn ≠ .inProgress .cls deadline := by
  unfold State.startOperation
  split <;> simp

/-- An OPEN that reaches memory counts no device closed that was not: it ends a CLOSE in progress and moves no breaker
(R42, R62). -/
theorem countedClosed_of_open_reaches {s : State} {d e : DevId} {tag : BitVec 4} {pending : Bool}
    (h : (s.commandReaches d .opn tag pending).countedClosed e = true) : s.countedClosed e = true := by
  have store := commandReaches_store s d .opn tag pending
  have device : (s.commandReaches d .opn tag pending).device e =
      if e = d then s.commanded d .opn tag pending else s.device e := by
    unfold State.device
    rw [commandReaches_devices, Sixteen.get_set]
  by_cases own : e = d
  · subst own
    rw [if_pos rfl] at device
    unfold State.countedClosed at h ⊢
    rw [hasRecord_of_store store, device, Bool.and_eq_true, Bool.or_eq_true] at h
    obtain ⟨record, moved | closing⟩ := h
    · have moved : ((s.device e).observed != .opened) = true := moved
      rw [record, moved, Bool.true_or, Bool.and_true]
    · split at closing
      · next deadline op => exact absurd op (startOperation_open_ne_close s e deadline)
      · cases closing
  · rw [if_neg own] at device
    rwa [countedClosed_congr store (by rw [device]) (by rw [device])] at h

/-- An event that raises a frame in an unmarked slot and does nothing else: the frame is in the recorder, its words are
dirty, and the rest of the block stands (R168, R172). -/
theorem raise_finish_steady {t : State} (i : Incident) (steady : t.steady) (unmarked : t.slotUnmarked) :
    ∃ D, (∀ off ∈ t.dirty ++ t.frameMarks, off ∈ D) ∧
      (t.raise i).finish t = { t with recorder := t.recorded i, dirty := D } := by
  rw [raise_recorded t i unmarked, finish_marked _ t steady (by rfl) (by rfl)]
  refine ⟨_, fun off mem => ?_, rfl⟩
  exact (mem_markList _ _ _).2 (.inl ((mem_markList _ _ _).2 (List.mem_append.1 mem)))

/-! ## The state of a grant -/

/-- A grant that the arbiter makes is carried out once the plain reads ahead of it are. -/
theorem grant_of {s : State} {q : PortId} {a : Access} (hnext : s.serveReads.nextPort = some q)
    (held : (s.serveReads.port q).access = some a) (f : Access → State → Option State) :
    s.grant q f = (f a s.serveReads).getD s := by
  unfold State.grant
  dsimp only
  rw [held]
  exact if_pos hnext

theorem PortsOnly.image {s t : State} (h : PortsOnly s t) : t.image = s.image := by
  obtain ⟨p, f, l, rfl⟩ := h
  rfl

theorem PortsOnly.injections {s t : State} (h : PortsOnly s t) : t.injections = s.injections := by
  obtain ⟨p, f, l, rfl⟩ := h
  rfl

theorem PortsOnly.entry {s t : State} (h : PortsOnly s t) (d : DevId) : t.entry d = s.entry d := by
  obtain ⟨p, f, l, rfl⟩ := h
  rfl

theorem PortsOnly.queued {s t : State} (h : PortsOnly s t) (d : DevId) : t.queued d = s.queued d := by
  unfold State.queued
  rw [h.injections]

theorem portsOnly_writeBackGranted (s : State) : PortsOnly s s.writeBackGranted :=
  (portsOnly_serveReads s).trans ⟨_, _, _, rfl⟩

theorem device_of_queued {s : State} {d : DevId} {e : Injection} (h : s.queued d = some e) : e.device = d := by
  have found := List.find?_some h
  exact eq_of_beq found

/-! ## A malformed command refused (R61, R71) -/

/-- MALFORMED_COMMAND_WRITE raises its frame, and that is all: memory and the device stand. -/
theorem exec_malformedCommandWrite {s t : State} {a : Access} {d : DevId} (granted : s.grantsWrite .p a)
    (ht : s.granted .p = t) (hclass : t.classify a.addr = .command d) (code : commandCode a.data = none)
    (steady : t.steady) (unmarked : t.slotUnmarked) :
    ∃ D, (∀ off ∈ t.dirty ++ t.frameMarks, off ∈ D) ∧ exec .malformedCommandWrite s = .next
      { t with recorder := t.recorded (t.refusedWrite d .malformed a.addr a.data), dirty := D } := by
  have write : exec .malformedCommandWrite s =
      .next ((t.raise (t.refusedWrite d .malformed a.addr a.data)).finish t) := by
    show execMalformedCommandWrite s = _
    unfold execMalformedCommandWrite
    rw [grantWrite_granted granted ht, commandWrite_of hclass code, Option.getD_some]
  rw [write]
  obtain ⟨D, marked, raised⟩ := raise_finish_steady (t.refusedWrite d .malformed a.addr a.data) steady unmarked
  exact ⟨D, marked, congrArg _ raised⟩

/-- Settles O13: the code alone makes a command malformed, the guard refuses it before it looks at the device, and the
write raises its frame and nothing more. -/
theorem malformedCommandIsRefused : Obligations.MalformedCommandIsRefused :=
  ⟨commandCode_eq_none_iff, judge_malformed, fun _ _ => commandCode_congr,
    fun e => commandCode_commandWord e.code 1 e.tag, fun _ _ _ _ => eq_close_of_judge_defer,
    fun _ _ _ _ => exec_malformedCommandWrite⟩

/-! ## An OPEN passed (R62) -/

/-- PROCESSOR_OPEN stores the command word, whoever owns the device. -/
theorem exec_processorOpen_image {s t : State} {a : Access} {d : DevId} (granted : s.grantsWrite .p a)
    (ht : s.granted .p = t) (hclass : t.classify a.addr = .command d) (code : commandCode a.data = some .opn) :
    ∃ u, exec .processorOpen s = .next u ∧
      u.image = t.image.write a.addr.toNat (commandWord .opn 0 (commandTag a.data)) := by
  refine ⟨(t.processorOpens d a).finish t, ?_, ((Inside.processorOpens t d a).trans (.finish _ t)).image⟩
  show execProcessorOpen s = _
  unfold execProcessorOpen
  rw [grantWrite_granted granted ht, commandWrite_of hclass code, Option.getD_some]

/-- An OPEN in the injection queue stores its command word at its grant, whoever queued it and however it is carried. -/
theorem carryInjection_open_image (s : State) {e : Injection} (scanner : Bool) (hopen : e.code = .opn) :
    (s.carryInjection e scanner).image = s.image.write (s.entry e.device).command.toNat (commandWord .opn 1 e.tag) := by
  have pass : s.judge (.injection e.owner) e.device (some e.code) = .pass false := by rw [hopen, judge_open]
  rcases Inside.carryInjection s e scanner with ⟨_, _, stored⟩ | ⟨refused, _⟩
  · rw [stored.image, State.storeWord_image, hopen]
  · exact absurd pass (refused false)

/-- INJECTION_WRITE stores an OPEN at the head of the queue. -/
theorem exec_injectionWrite_open_image {s : State} {e : Injection} {es : List Injection} (granted : s.grantsWriteBack)
    (head : s.injections = e :: es) (hopen : e.code = .opn) :
    ∃ u, exec .injectionWrite s = .next u ∧
      u.image = s.image.write (s.entry e.device).command.toNat (commandWord .opn 1 e.tag) := by
  have ports := portsOnly_writeBackGranted s
  refine ⟨(s.writeBackGranted.carryInjection e false).finish s.writeBackGranted, ?_, ?_⟩
  · show execInjectionWrite s = _
    unfold execInjectionWrite
    rw [grantWriteBack_granted granted rfl, ports.injections, head]
    rfl
  · rw [(Inside.finish _ _).image, carryInjection_open_image _ false hopen, ports.image, ports.entry]

/-- SCANNER_COMMAND_READ stores an OPEN queued for the device it reads. -/
theorem exec_scannerCommandRead_open_image {s : State} {a : Access} {d : DevId} {e : Injection}
    (granted : s.grantsCommandRead a d) (queued : s.queued d = some e) (hopen : e.code = .opn) :
    ∃ u, exec .scannerCommandRead s = .next u ∧
      u.image = s.image.write (s.entry d).command.toNat (commandWord .opn 1 e.tag) := by
  obtain ⟨hnext, held, read, hclass⟩ := granted
  have ports := portsOnly_serveReads s
  have carried : s.serveReads.scannerReads d = s.serveReads.carryInjection e true := by
    unfold State.scannerReads
    rw [ports.queued, queued]
  have ended := portsOnly_endRead (s.serveReads.scannerReads d) .f ((s.serveReads.scannerReads d).readImage a.addr)
  refine ⟨((s.serveReads.scannerReads d).endRead .f ((s.serveReads.scannerReads d).readImage a.addr)).finish
    s.serveReads, ?_, ?_⟩
  · show execScannerCommandRead s = _
    unfold execScannerCommandRead
    rw [grant_of hnext held, read, hclass]
    rfl
  · rw [(Inside.finish _ _).image, ended.image, carried, carryInjection_open_image _ true hopen, ports.image,
      ports.entry, device_of_queued queued]

/-- Settles O14: the guard passes every OPEN at its second check, and whichever way an OPEN comes its word reaches
memory. -/
theorem openAlwaysPasses : Obligations.OpenAlwaysPasses :=
  ⟨judge_open, fun _ _ _ _ _ => countedClosed_of_open_reaches, fun _ _ _ _ => exec_processorOpen_image,
    fun _ _ _ => exec_injectionWrite_open_image, fun _ _ _ _ => exec_scannerCommandRead_open_image⟩

end Sys2Proof.Machine
end

section
/-! PROOFS. RELEASE (R94): first what it makes of one section, then of the sections of a list, then the row; last what R94
says of the time after it. -/

namespace Sys2Proof.Machine

/-! ## A section released -/

/-- A section in LOCKOUT becomes DISARMED; in any other state it is unchanged (R94). -/
def Section.released (x : Section) : Section := if x.state = .lockout then { x with state := .disarmed } else x

theorem Section.released_released (x : Section) : x.released.released = x.released := by
  unfold Section.released
  by_cases locked : x.state = .lockout <;> simp [locked]

/-- To release a section where it is named is to move it where it is named and in LOCKOUT. -/
theorem ite_released (named : Prop) [Decidable named] (x : Section) :
    (if named then x.released else x) =
      if named ∧ x.state = .lockout then { x with state := .disarmed } else x := by
  unfold Section.released
  by_cases hn : named
  · by_cases locked : x.state = .lockout
    · rw [if_pos hn, if_pos locked, if_pos ⟨hn, locked⟩]
    · rw [if_pos hn, if_neg locked, if_neg fun both => locked both.2]
  · rw [if_neg hn, if_neg fun both => hn both.1]

/-- RELEASE of one section writes that section and its status word's mark. -/
theorem releaseOne_shape (s : State) (b : SecId) :
    ∃ D, (∀ off ∈ s.dirty, off ∈ D) ∧
      s.releaseOne b = { s with sections := s.sections.set b (s.section b).released, dirty := D } := by
  unfold State.releaseOne Section.released
  split
  · exact setSectionState_shape s b .disarmed
  · refine ⟨s.dirty, fun _ mem => mem, ?_⟩
    show s = { s with sections := s.sections.set b (s.sections.get b) }
    rw [Four.set_get]

/-- RELEASE of the sections of a list, one after the other: a section named twice is released as if named once. -/
theorem foldl_releaseOne_shape (s : State) (bs : List SecId) :
    ∃ D S, (∀ off ∈ s.dirty, off ∈ D) ∧
      (∀ c, S.get c = if c ∈ bs then (s.section c).released else s.section c) ∧
      bs.foldl State.releaseOne s = { s with sections := S, dirty := D } := by
  induction bs generalizing s with
  | nil => exact ⟨s.dirty, s.sections, fun _ mem => mem, by simp [State.section], rfl⟩
  | cons b bs ih =>
    obtain ⟨D₁, marked₁, released₁⟩ := releaseOne_shape s b
    obtain ⟨D, S, marked, sections, released⟩ := ih (s.releaseOne b)
    have first : ∀ c, (s.releaseOne b).section c = if c = b then (s.section b).released else s.section c := by
      intro c
      rw [released₁]
      exact Four.get_set _ _ _ _
    refine ⟨D, S, fun off mem => marked off ?_, fun c => ?_, ?_⟩
    · rw [released₁]
      exact marked₁ off mem
    · rw [sections, first]
      by_cases own : c = b
      · subst own
        simp [Section.released_released]
      · simp [own]
    · rw [List.foldl_cons, released, released₁]

/-! ## A RELEASE write (R94) -/

/-- While GUARDING a RELEASE write releases the sections whose bits are one, the latch set or clear. -/
theorem releaseSections_guarding {s : State} (w : Word) (guarding : s.guarding = true) :
    ∃ D S, (∀ off ∈ s.dirty, off ∈ D) ∧
      (∀ b : SecId, S.get b = if w.getLsbD b.val = true then (s.section b).released else s.section b) ∧
      s.releaseSections w = { s with sections := S, dirty := D } := by
  obtain ⟨D, S, marked, sections, released⟩ := foldl_releaseOne_shape s (namedSections w)
  refine ⟨D, S, marked, fun b => ?_, ?_⟩
  · have named : b ∈ namedSections w ↔ w.getLsbD b.val = true := mem_namedSections w b
    simp only [sections, named]
  · rw [State.releaseSections, if_pos guarding, released]

theorem releaseSections_unconfigured {s : State} (w : Word) (unconfigured : s.guarding = false) :
    s.releaseSections w = s := by
  rw [State.releaseSections, if_neg (by simp [unconfigured])]

/-- RELEASE stores zero in its control word and hands the data offered to the Section Controller, as one event (R27). -/
theorem exec_release_granted {s t : State} {a : Access} (granted : s.grantsWrite .p a) (ht : s.granted .p = t)
    (hclass : t.classify a.addr = .control 0x103) :
    exec .release s =
      .next (((t.storeWord a.addr 0).releaseSections a.data).finish (t.storeWord a.addr 0)) := by
  show execRelease s = _
  unfold execRelease
  rw [grantWrite_granted granted ht, controlEvent_of hclass, Option.getD_some]

/-- RELEASE while GUARDING. -/
theorem exec_release_guarding {s t : State} {a : Access} (granted : s.grantsWrite .p a) (ht : s.granted .p = t)
    (hclass : t.classify a.addr = .control 0x103) (guarding : t.guarding = true) (steady : t.steady) :
    ∃ D S, (∀ off ∈ t.dirty, off ∈ D) ∧
      (∀ b : SecId, S.get b =
        if a.data.getLsbD b.val = true ∧ (t.section b).state = .lockout then { t.section b with state := .disarmed }
        else t.section b) ∧
      exec .release s = .next { t with image := t.image.write a.addr.toNat 0, sections := S, dirty := D } := by
  have stored : (t.storeWord a.addr 0).steady := steady.of rfl rfl
  obtain ⟨D, S, marked, sections, released⟩ := releaseSections_guarding (s := t.storeWord a.addr 0) a.data guarding
  rw [exec_release_granted granted ht hclass, released, finish_marked _ (t.storeWord a.addr 0) stored (by rfl) (by rfl)]
  exact ⟨_, S, fun off mem => (mem_markList _ _ _).2 (.inl (marked off mem)),
    fun b => (sections b).trans (ite_released _ _), rfl⟩

/-- RELEASE while UNCONFIGURED: the word is stored as zero, and no status word changes. -/
theorem exec_release_unconfigured {s t : State} {a : Access} (granted : s.grantsWrite .p a) (ht : s.granted .p = t)
    (hclass : t.classify a.addr = .control 0x103) (unconfigured : t.guarding = false) (steady : t.steady) :
    exec .release s = .next { t with image := t.image.write a.addr.toNat 0 } := by
  have stored : (t.storeWord a.addr 0).steady := steady.of rfl rfl
  have ignored : (t.storeWord a.addr 0).releaseSections a.data = t.storeWord a.addr 0 :=
    releaseSections_unconfigured a.data unconfigured
  rw [exec_release_granted granted ht hclass, ignored, finish_steady _ _ stored, markChanged_self]
  rfl

/-! ## After the release: arming and routes (R56, R92, R110) -/

theorem usableDevice_of_trip {s : State} {d : DevId} (trip : (s.device d).trip = true) : s.usableDevice d = false := by
  simp [State.usableDevice, trip]

/-- A route needs a device that is usable (R56, R110), whatever is asked of its source. -/
theorem usable_of_unusableDevice {s : State} {k : CtxId} {r : Route} {d : DevId} (ignoreState : Bool)
    (route : s.routeDeviceFor (s.context k).set r = some d) (unusable : s.usableDevice d = false) :
    s.usable k ignoreState r = false := by
  unfold State.usable State.usableFor
  dsimp only
  rw [route]
  simp [unusable]

theorem armable_of_disarmed {s : State} {b : SecId} (disarmed : (s.section b).state = .disarmed) :
    s.armable b = true := by
  simp [State.armable, disarmed]

/-- Settles O34: RELEASE takes the sections it names out of LOCKOUT while GUARDING and is ignored while UNCONFIGURED, and
the latch is read in neither case; DISARMED is a state that ARM takes, and a trip flag makes its device unusable. -/
theorem releaseTakesSectionsOutOfLockout : Obligations.ReleaseTakesSectionsOutOfLockout :=
  ⟨fun _ _ _ => exec_release_guarding, fun _ _ _ => exec_release_unconfigured,
    fun _ _ ignoreState _ _ route trip => usable_of_unusableDevice ignoreState route (usableDevice_of_trip trip),
    fun _ _ => armable_of_disarmed⟩

end Sys2Proof.Machine
end

section
/-! PROOFS. Time fields and the timers they run (R178, R176). First what a time field gives and how far it reaches, then
that every duration of a copy is a time field of its words, then when a timer expires. -/

namespace Sys2Proof.Machine

/-! ## Time fields (12.3, R178) -/

theorem timeUnit_eq_ite (u : Nat) :
    timeUnit u = if u = 0 then 1 else if u = 1 then 10 else if u = 2 then 100 else 1000 := by
  match u with
  | 0 => rfl
  | 1 => rfl
  | 2 => rfl
  | u + 3 => simp [timeUnit]

theorem timeUnit_pos (u : Nat) : 1 ≤ timeUnit u := by
  unfold timeUnit
  split <;> decide

theorem timeUnit_le (u : Nat) : timeUnit u ≤ 1000 := by
  unfold timeUnit
  split <;> decide

theorem duration_pos (w : Word) : 1 ≤ duration w := Nat.mul_pos (Nat.succ_pos _) (timeUnit_pos _)

/-- The longest duration is 256 s: the greatest value in the greatest unit. -/
theorem duration_le (w : Word) : duration w ≤ 256000 := by
  have value : field w 0 8 + 1 ≤ 256 := field_lt w 0 8
  calc duration w = (field w 0 8 + 1) * timeUnit (field w 8 2) := rfl
    _ ≤ 256 * 1000 := Nat.mul_le_mul value (timeUnit_le _)

/-! ## The durations of the working copy (12.3, R178) -/

@[simp] theorem boardOf_sources (m : Memory) (n : SrcId) : (boardOf m).sources.get n = sourceEntryOf m n :=
  Four.get_ofFn _ n

@[simp] theorem boardOf_sections (m : Memory) (b : SecId) : (boardOf m).sections.get b = sectionEntryOf m b :=
  Four.get_ofFn _ b

@[simp] theorem boardOf_devices (m : Memory) (d : DevId) : (boardOf m).devices.get d = deviceEntryOf m d :=
  Sixteen.get_ofFn _ d

theorem sourceEntryOf_durations (m : Memory) (n : SrcId) :
    (sourceEntryOf m n).rideThrough = duration (m.read (0x50 + 6 * n.val + 2)) ∧
    (sourceEntryOf m n).stability = duration (m.read (0x50 + 6 * n.val + 3)) ∧
    (sourceEntryOf m n).startLimit = duration (m.read (0x50 + 6 * n.val + 4)) ∧
    (sourceEntryOf m n).coolDown = duration (m.read (0x50 + 6 * n.val + 5)) :=
  ⟨rfl, rfl, rfl, rfl⟩

theorem sectionEntryOf_durations (m : Memory) (b : SecId) :
    (sectionEntryOf m b).deadBus = duration (m.read (0x68 + 5 * b.val + 1)) ∧
    (sectionEntryOf m b).stagger = duration (m.read (0x68 + 5 * b.val + 2)) :=
  ⟨rfl, rfl⟩

/-- An unused entry alone takes its operate limit from no word. -/
theorem deviceEntryOf_limit (m : Memory) (d : DevId) (used : (deviceEntryOf m d).kind ≠ .unused) :
    (deviceEntryOf m d).limit = duration (m.read (5 * d.val + 3)) := by
  unfold deviceEntryOf at used ⊢
  dsimp only at used ⊢
  split at used
  · exact absurd rfl used
  · rfl

/-! ## Timers (R176) -/

theorem due_some_iff (t : State) (e : Ms) : t.due (some e) = true ↔ t.ms = e := by
  rw [State.due, beq_iff_eq, Option.some_inj, eq_comm]

/-- A timer expires at the tick whose ms count is its duration past its start, modulo 2 to the power 32 (R176). -/
theorem due_after_iff (s t : State) (ms : Nat) :
    t.due (some (s.after ms)) = true ↔ t.ms = s.ms + BitVec.ofNat 32 ms :=
  due_some_iff t (s.after ms)

/-- A timer that runs for less than a whole turn of the ms count does not expire at the event that starts it (R176). -/
theorem not_due_after {ms : Nat} (pos : 1 ≤ ms) (short : ms < 2 ^ 32) (s : State) :
    s.due (some (s.after ms)) = false := by
  rw [Bool.eq_false_iff, Ne, due_after_iff]
  intro expires
  bv_omega

/-- Settles O60: a time field gives (v + 1) × u, from 1 ms to 256 s, every duration of the working copy is a time field of
the copy, and a timer started with it expires that many ticks later and not at its start. -/
theorem durationsOfTimeFields : Obligations.DurationsOfTimeFields := by
  refine ⟨fun w => ?_, fun w => ⟨duration_pos w, duration_le w⟩, fun m n => ?_, fun m b => ?_, fun m d used => ?_,
    fun m => ⟨rfl, rfl, rfl⟩, fun s t w => due_after_iff s t (duration w), fun s w => ?_⟩
  · rw [duration, timeUnit_eq_ite]
  · rw [boardOf_sources]
    exact sourceEntryOf_durations m n
  · rw [boardOf_sections]
    exact sectionEntryOf_durations m b
  · rw [boardOf_devices] at used ⊢
    exact deviceEntryOf_limit m d used
  · have longest := duration_le w
    exact not_due_after (duration_pos w) (by omega) s

end Sys2Proof.Machine
end

section
/-! PROOFS. The queue of commands, the ports and the arbiter (R21, R29): what a step, a presentation and a grant do, and how
long a requester waits. -/

namespace Sys2Proof.Machine

/-- Settles O1: a step takes the command at the front of the queue. -/
theorem stepTakesTheFrontCommand : Obligations.StepTakesTheFrontCommand := fun _ _ _ => rfl

/-! ## An empty queue (log 3) -/

theorem step_of_pending_nil {s : State} (empty : s.pending = []) : step s = .next s.serveRead := by
  unfold step
  rw [empty]

theorem serveRead_of_plain {s : State} {q : PortId} {a : Access} (next : s.nextPort = some q)
    (held : (s.port q).access = some a) (plain : s.plainRead q a = true) :
    s.serveRead = s.endRead q (s.readImage a.addr) := by
  unfold State.serveRead
  simp only [next, held, if_pos plain]

/-- Where no port that is next holds a plain read, none is carried. -/
theorem serveRead_of_not_plain {s : State}
    (none : ∀ (q : PortId) (a : Access), s.nextPort = some q → (s.port q).access = some a → s.plainRead q a = false) :
    s.serveRead = s := by
  unfold State.serveRead
  split
  · next q next =>
    split
    · next a held => rw [if_neg (by simp [none q a next held])]
    · rfl
  · rfl

/-- Settles O2: with no command waiting, a step is the plain read that the arbiter has next, or nothing. -/
theorem emptyQueueCarriesAPlainRead : Obligations.EmptyQueueCarriesAPlainRead := by
  refine ⟨fun s q a empty next held plain => ?_, fun s empty none => ?_⟩
  · rw [step_of_pending_nil empty, serveRead_of_plain next held plain]
  · rw [step_of_pending_nil empty, serveRead_of_not_plain none]

/-! ## The ports (R21) -/

theorem port_setPort (s : State) (q : PortId) (x : Port) : (s.setPort q x).port q = x := by cases q <;> rfl

theorem port_endAccess (s : State) (q : PortId) : ((s.endAccess q).port q).access = none := by cases q <;> rfl

/-- A grant's requester is the last granted. -/
theorem lastGranted_granted (s : State) (q : PortId) : (s.granted q).lastGranted = requesterOf q := rfl

/-- Settles O4: a port takes an access only where it holds none, and a grant frees it. -/
theorem portsHoldOneAccess : Obligations.PortsHoldOneAccess := by
  refine ⟨fun q a s free => ?_, fun q a b s held => ?_, fun q s => rfl, fun s a w => ⟨rfl, rfl⟩, fun s q => ?_⟩
  · show execAccessPresent q a s = _
    unfold execAccessPresent
    rw [free]
  · show execAccessPresent q a s = _
    unfold execAccessPresent
    rw [held]
  · refine ⟨port_endAccess _ q, ?_⟩
    obtain ⟨p, f, l, ports⟩ := portsOnly_granted s q
    have last : l = requesterOf q := by rw [← lastGranted_granted s q, ports]
    exact ⟨p, f, by rw [ports, last]⟩

/-! ## The arbiter (R29) -/

/-- The arbiter grants the first of the rotation that waits. -/
theorem nextGrant_eq {s : State} {x y z : Requester} (order : rotation s.lastGranted = [x, y, z]) :
    s.nextGrant =
      if s.waiting x = true then some x else if s.waiting y = true then some y else if s.waiting z = true then some z
      else none := by
  unfold State.nextGrant
  rw [order]
  simp only [List.find?_cons, List.find?_nil]
  cases s.waiting x <;> cases s.waiting y <;> cases s.waiting z <;> rfl

/-- What is granted is the first of the rotation that waits, so no requester before it waits. -/
theorem nextGrant_cases {s : State} {g : Requester} (grant : s.nextGrant = some g) {x y z : Requester}
    (order : rotation s.lastGranted = [x, y, z]) :
    g = x ∨ (s.waiting x = false ∧ g = y) ∨ (s.waiting x = false ∧ s.waiting y = false ∧ g = z) := by
  rw [nextGrant_eq order] at grant
  split at grant
  · exact .inl (Option.some.inj grant).symm
  · next not_x =>
    have not_x : s.waiting x = false := by simpa using not_x
    split at grant
    · exact .inr (.inl ⟨not_x, (Option.some.inj grant).symm⟩)
    · next not_y =>
      split at grant
      · exact .inr (.inr ⟨not_x, by simpa using not_y, (Option.some.inj grant).symm⟩)
      · cases grant

/-- The requester that comes after another in the rotation. -/
def Requester.next : Requester → Requester
  | .p => .f
  | .f => .w
  | .w => .p

theorem rotation_eq (r : Requester) : rotation r = [r.next, r.next.next, r] := by cases r <;> rfl

/-- The requester after the last granted is granted if it waits. -/
theorem nextGrant_of_next {s : State} {r : Requester} (turn : s.lastGranted.next = r) (waits : s.waiting r = true) :
    s.nextGrant = some r := by
  rw [nextGrant_eq (rotation_eq _), turn, if_pos waits]

/-- One that waits in the second place is granted, or what is granted leaves it in the first place. -/
theorem nextGrant_of_second {s : State} {r g : Requester} (turn : s.lastGranted.next.next = r)
    (waits : s.waiting r = true) (grant : s.nextGrant = some g) : g = r ∨ g.next = r := by
  rcases nextGrant_cases grant (rotation_eq _) with first | ⟨_, second⟩ | ⟨_, idle, _⟩
  · exact .inr (by rw [first, turn])
  · exact .inl (by rw [second, turn])
  · rw [turn, waits] at idle
    cases idle

/-- One that waits in the last place is granted, or what is granted leaves it in a place before the last. -/
theorem nextGrant_of_last {s : State} {r g : Requester} (turn : s.lastGranted = r) (grant : s.nextGrant = some g) :
    g = r ∨ g.next = r ∨ g.next.next = r := by
  rcases nextGrant_cases grant (rotation_eq _) with first | ⟨_, second⟩ | ⟨_, _, third⟩
  · exact .inr (.inr (by rw [first, turn]; cases r <;> rfl))
  · exact .inr (.inl (by rw [second, turn]; cases r <;> rfl))
  · exact .inl (third.trans turn)

/-- A requester stands in one of the three places of the rotation. -/
theorem place_in_rotation (l r : Requester) : l.next = r ∨ l.next.next = r ∨ l = r := by
  cases l <;> cases r <;> decide

/-- Of three grants in a row, one goes to a requester that waits at each: every grant to another moves it one place up. -/
theorem granted_within_three {r g h : Requester} {s₁ s₂ s₃ : State} (waits₁ : s₁.waiting r = true)
    (waits₂ : s₂.waiting r = true) (waits₃ : s₃.waiting r = true) (grant₁ : s₁.nextGrant = some g)
    (last₂ : s₂.lastGranted = g) (grant₂ : s₂.nextGrant = some h) (last₃ : s₃.lastGranted = h) :
    g = r ∨ h = r ∨ s₃.nextGrant = some r := by
  have second_first : g.next = r → h = r := fun turn => by
    have again := nextGrant_of_next (by rw [last₂, turn]) waits₂
    rw [grant₂] at again
    exact Option.some.inj again
  have second_then : g.next.next = r → h = r ∨ h.next = r := fun turn =>
    nextGrant_of_second (by rw [last₂, turn]) waits₂ grant₂
  have third : h.next = r → s₃.nextGrant = some r := fun turn => nextGrant_of_next (by rw [last₃, turn]) waits₃
  rcases place_in_rotation s₁.lastGranted r with turn | turn | turn
  · rw [nextGrant_of_next turn waits₁] at grant₁
    exact .inl (Option.some.inj grant₁).symm
  · rcases nextGrant_of_second turn waits₁ grant₁ with now | next
    · exact .inl now
    · exact .inr (.inl (second_first next))
  · rcases nextGrant_of_last turn grant₁ with now | next | last
    · exact .inl now
    · exact .inr (.inl (second_first next))
    · exact .inr ((second_then last).imp id third)

theorem waiting_writeBack_iff (s : State) : s.waiting .w = true ↔ s.injections ≠ [] ∨ s.dirty ≠ [] := by
  show (!s.injections.isEmpty || !s.dirty.isEmpty) = true ↔ _
  simp

/-- Settles O5: the arbiter runs its rotation, and three grants serve every requester that waits. -/
theorem arbiterServesWithinThreeGrants : Obligations.ArbiterServesWithinThreeGrants := by
  refine ⟨fun s x y z order => nextGrant_eq ?_, fun s => ⟨?_, ?_, waiting_writeBack_iff s⟩,
    fun _ _ _ _ _ _ => granted_within_three⟩
  · rw [order]
    cases s.lastGranted <;> rfl
  · exact Option.isSome_iff_ne_none
  · exact Option.isSome_iff_ne_none

end Sys2Proof.Machine
end

section
/-! PROOFS. The state after hardware reset: its values, the images of its status words, and the invariant (R20, R36, R90,
R107, R128, R167, R175, R179). -/

namespace Sys2Proof.Machine

/-! ## Nothing is configured (R19) -/

theorem deviceEntryOf_nil (d : DevId) : deviceEntryOf [] d = DeviceEntry.blank := rfl

theorem board_reset : State.reset.board = boardOf [] := rfl

theorem hasRecord_reset (d : DevId) : State.reset.hasRecord d = false := by
  unfold State.hasRecord State.kindOf State.entry
  rw [board_reset, boardOf_devices, deviceEntryOf_nil]
  rfl

theorem generator_reset (n : SrcId) : (State.reset.sourceEntry n).generator = false := by
  unfold State.sourceEntry
  rw [board_reset, boardOf_sources]
  simp [sourceEntryOf, Memory.read, flag]

theorem boardOf_nil_outside (page : BitVec 4) : (boardOf []).outside page := by
  intro d used
  rw [boardOf_devices, deviceEntryOf_nil] at used
  exact absurd rfl used

/-- Settles O6: after reset every status word is dirty, no device has a record and no copy waits. -/
theorem resetIsSound : Obligations.ResetIsSound := by
  have sound : State.reset.Sound :=
    { dirtyOrdered := ⟨by decide, fun _ => isReport_status⟩
      oneInjectionEach := ⟨.nil, fun _ mem => by cases mem⟩
      canonical := State.reset_canonical
      addressesOutside := ⟨boardOf_nil_outside _, fun _ waits => by cases waits⟩
      demandsMet := fun n generator => by rw [generator_reset] at generator; cases generator
      latchHolds := fun isSet => by cases isSet }
  exact ⟨sound, rfl, fun off mem clean => absurd mem clean⟩

/-! ## Images after reset (R179) -/

theorem reportImage_reset_section (b : SecId) : State.reset.reportImage (0x210 + b.val) = 0x7EE0 := by
  match b with
  | 0 => decide +kernel
  | 1 => decide +kernel
  | 2 => decide +kernel
  | 3 => decide +kernel

/-- Of the status words only the reject offset and the section words are not zero. -/
theorem reportImage_reset :
    ∀ off ∈ statusOffsets, off ≠ 0x201 → ¬(0x210 ≤ off ∧ off < 0x214) → State.reset.reportImage off = 0 := by
  decide +kernel

/-! ## HARDWARE_RESET (R20, R36) -/

/-- RQ is low where no generator is configured (R86). -/
theorem rq_of_no_generator {s : State} {n : SrcId} (utility : (s.sourceEntry n).generator = false) : s.rq n = false := by
  unfold State.rq
  rw [utility, Bool.false_and]

/-- The state that HARDWARE_RESET leaves. -/
def State.hardReset (s : State) (strap : BitVec 4) : State :=
  { State.reset with store := { State.reset.store with page := strap }, image := s.image, pending := s.pending }

theorem exec_hardwareReset (s : State) (strap : BitVec 4) : exec (.hardwareReset strap) s = .next (s.hardReset strap) :=
  rfl

theorem source_hardReset (s : State) (strap : BitVec 4) (n : SrcId) : (s.hardReset strap).source n = Source.reset :=
  Four.get_fill _ n

theorem rq_hardReset (s : State) (strap : BitVec 4) (n : SrcId) : (s.hardReset strap).rq n = false :=
  rq_of_no_generator (generator_reset n)

/-- Settles O8: the images after reset, and the values that HARDWARE_RESET leaves. -/
theorem hardwareResetValues : Obligations.HardwareResetValues := by
  refine ⟨⟨by decide +kernel, by decide +kernel, reportImage_reset_section, fun off mem reject sections => ?_⟩,
    fun strap s => ⟨s.hardReset strap, exec_hardwareReset s strap, ?_⟩⟩
  · exact reportImage_reset off mem reject fun range =>
      sections ⟨off - 0x210, by omega⟩ (by simp only; omega)
  · refine ⟨rfl, rfl, rfl, rfl, rfl, rfl, rfl, rfl, fun n => ?_, fun b => ?_, fun b => Four.get_fill _ b, rfl, rfl,
      fun k => ?_, rfl, rfl, rfl, rfl, rfl, rfl, rfl, fun k => Three.get_fill _ k, rfl, rfl, rfl⟩
    · rw [source_hardReset]
      exact ⟨rfl, rfl, rfl, rfl, rfl, rfl, rq_hardReset s strap n⟩
    · rw [show (s.hardReset strap).locks.get b = Filter.low from Four.get_fill _ b]
      exact ⟨rfl, rfl⟩
    · rw [show (s.hardReset strap).context k = Context.blank from Three.get_fill _ k]
      rfl

/-! ## Every command answers a next state -/

/-- Settles O3: no row faults and none refuses. -/
theorem everyCommandCompletes : Obligations.EveryCommandCompletes := by
  intro c s
  cases c <;> exact ⟨_, rfl⟩

/-! ## Plain writes (R13, R24, R25, R27) -/

/-- CONFIGURATION_WRITE stores the word and stages it. -/
theorem exec_configurationWrite {s t : State} {a : Access} {off : Nat} (granted : s.grantsWrite .p a)
    (ht : s.granted .p = t) (hclass : t.classify a.addr = .configuration off) :
    exec .configurationWrite s = .next
      { t with
        image := t.image.write a.addr.toNat a.data,
        store := { t.store with staged := t.store.staged.write off a.data } } := by
  show execConfigurationWrite s = _
  unfold execConfigurationWrite
  rw [grantWrite_granted granted ht, hclass]
  rfl

theorem exec_otherWordWrite_granted {q : PortId} {s t : State} {a : Access} (granted : s.grantsWrite q a)
    (ht : s.granted q = t) : exec (.otherWordWrite q) s = .next ((t.writeOther q a).getD s) := by
  show execOtherWordWrite q s = _
  unfold execOtherWordWrite
  rw [grantWrite_granted granted ht]

/-- An other word is stored as it comes, unless it is the scanner's and lies in the guard page. -/
theorem writeOther_other {q : PortId} {t : State} {a : Access} (hclass : t.classify a.addr = .other)
    (outside : q = .f → inGuardPage t.store.page a.addr = false) :
    t.writeOther q a = some (t.storeWord a.addr a.data) := by
  unfold State.writeOther
  rw [hclass]
  cases q with
  | p => rfl
  | f => exact if_neg (by simp [outside rfl])

/-- A general control write without an action stores zero (log 8). -/
theorem writeOther_control {t : State} {a : Access} (hclass : t.classify a.addr = .control 0x100)
    (idle : field a.data 0 3 = 0) : t.writeOther .p a = some (t.storeWord a.addr 0) := by
  unfold State.writeOther
  rw [hclass]
  exact if_pos ⟨rfl, idle⟩

/-- Settles O18: the writes that no block judges are stored as the spec says. -/
theorem plainWritesAreStored : Obligations.PlainWritesAreStored := by
  refine ⟨fun s t a off => exec_configurationWrite, fun q s t a granted ht hclass outside => ?_,
    fun s t a granted ht hclass idle => ?_⟩
  · rw [exec_otherWordWrite_granted granted ht, writeOther_other hclass outside]
    rfl
  · rw [exec_otherWordWrite_granted granted ht, writeOther_control hclass idle]
    rfl

end Sys2Proof.Machine
end

section
/-! PROOFS. The checks of a CLOSE in their order (R60, R63 to R68), and what a CLOSE that passes has passed. -/

namespace Sys2Proof.Machine

/-! ## Ownership (R63, R64) -/

/-- The owner of a device leaves the judgement of a CLOSE to the checks that follow: no context owns it, or the one that
does has queued the command. -/
def State.closeOpen (s : State) (as : JudgedAs) (d : DevId) : Prop :=
  (s.device d).owner = .processor ∨ (s.device d).owner = .emergency ∨
    ∃ k, (s.device d).owner = .context k ∧ as = .injection (.context k)

theorem judge_close_defer {s : State} {d : DevId} {k : CtxId} (owner : (s.device d).owner = .context k) :
    s.judge .processorWrite d (some .cls) = .defer := by
  unfold State.judge State.judgeOwner
  simp only [owner]

theorem judge_close_deferred {s : State} {d : DevId} {k : CtxId} {e : Enqueuer}
    (owner : (s.device d).owner = .context k) (other : e ≠ .context k) :
    s.judge (.injection e) d (some .cls) = .refuse .deferred := by
  unfold State.judge State.judgeOwner
  simp only [owner, if_neg other]

theorem judge_close_of_open {s : State} {as : JudgedAs} {d : DevId} (owner : s.closeOpen as d) :
    s.judge as d (some .cls) = s.judgeClose as d := by
  unfold State.judge State.judgeOwner
  rcases owner with free | emergency | ⟨k, own, rfl⟩
  · cases as <;> simp only [free]
  · cases as <;> simp only [emergency]
  · simp only [own, if_true]

/-! ## Emergency, lock, parallel (R65 to R68) -/

/-- The latch holds the device open (R65). -/
def State.heldOpen (s : State) (d : DevId) : Prop := s.latch.isSet = true ∧ (s.entry d).emergencyOpen = true

theorem judgeClose_emergency {s : State} (as : JudgedAs) {d : DevId} (held : s.heldOpen d) :
    s.judgeClose as d = .refuse .emergency := by
  unfold State.judgeClose
  rw [if_pos (by simpa [State.heldOpen] using held)]

theorem judgeClose_not_held {s : State} (as : JudgedAs) {d : DevId} (free : ¬s.heldOpen d) :
    s.judgeClose as d =
      if s.deviceLocked d then .refuse .locked
      else if s.wouldParallel d then (if s.exempt as d then .pass true else .refuse .parallel)
      else .pass false := by
  unfold State.judgeClose
  rw [if_neg (by simpa [State.heldOpen] using free)]

/-- Settles O12: the ownership check decides first, then the latch, the locks and the prospective island. -/
theorem closeIsCheckedInOrder : Obligations.CloseIsCheckedInOrder := by
  refine ⟨fun s d k owner => ⟨judge_close_defer owner, fun e other => judge_close_deferred owner other⟩,
    fun s as d owner => ?_⟩
  rw [judge_close_of_open owner]
  refine ⟨judgeClose_emergency as, fun free locked => ?_, fun free unlocked parallel bound => ?_,
    fun free unlocked parallel exempt => ?_, fun free unlocked apart => ?_⟩
  · rw [judgeClose_not_held as free, if_pos locked]
  · rw [judgeClose_not_held as free, if_neg (by simp [unlocked]), if_pos parallel, if_neg (by simp [bound])]
  · rw [judgeClose_not_held as free, if_neg (by simp [unlocked]), if_pos parallel, if_pos exempt]
  · rw [judgeClose_not_held as free, if_neg (by simp [unlocked]), if_neg (by simp [apart])]

/-! ## What a CLOSE that passes has passed -/

/-- The latch and the locks let a CLOSE of the device through, and so does the parallel check, or an exemption of `as`. -/
def State.closeSafe (s : State) (as : JudgedAs) (d : DevId) : Prop :=
  ¬s.heldOpen d ∧ s.deviceLocked d = false ∧ (s.wouldParallel d = false ∨ s.exempt as d = true)

theorem closeSafe_of_judgeClose {s : State} {as : JudgedAs} {d : DevId} {x : Bool} (pass : s.judgeClose as d = .pass x) :
    s.closeSafe as d := by
  by_cases held : s.heldOpen d
  · rw [judgeClose_emergency as held] at pass
    cases pass
  · rw [judgeClose_not_held as held] at pass
    split at pass
    · cases pass
    · next unlocked =>
      refine ⟨held, by simpa using unlocked, ?_⟩
      split at pass
      · split at pass
        · next exempt => exact .inr exempt
        · cases pass
      · next apart => exact .inl (by simpa using apart)

theorem closeSafe_of_pass {s : State} {as : JudgedAs} {d : DevId} {x : Bool}
    (pass : s.judge as d (some .cls) = .pass x) : s.closeSafe as d := by
  unfold State.judge at pass
  dsimp only at pass
  split at pass
  · next v owner =>
    unfold State.judgeOwner at owner
    split at owner
    · cases owner
      cases pass
    · split at owner
      · cases owner
      · cases owner
        cases pass
    · cases owner
  · exact closeSafe_of_judgeClose pass

/-- A processor write is never exempt, and an injection only for the context that queued it (R68). -/
theorem exempt_owner {s : State} {as : JudgedAs} {d : DevId} (exempt : s.exempt as d = true) :
    ∃ k, as = .injection (.context k) := by
  unfold State.exempt at exempt
  split at exempt
  · next k _ _ => exact ⟨k, rfl⟩
  · cases exempt

end Sys2Proof.Machine
end

section
/-! PROOFS. What a row can do at all: the invariant it keeps, the one word it stores, the strap, the clock and the staged
copy it leaves. One lemma for each kind of row, then for each row, and from them the four statements about every command. -/

namespace Sys2Proof.Machine

/-! ## What a row keeps and stores -/

/-- Memory with a word put at an address, where there is one. -/
def imageWith (m : Memory) : Option (Word × Word) → Memory
  | none => m
  | some (a, w) => m.write a.toNat w

/-- What a command other than a reset leaves: the strap and the waiting commands, but for a tick the clock and the lines,
but for a configuration write the staged copy. -/
structure Unmoved (c : Instr) (s u : State) : Prop where
  page : u.store.page = s.store.page
  pending : u.pending = s.pending
  clock : (∀ sh lk eop sync, c ≠ .millisecondTick sh lk eop sync) → u.ms = s.ms ∧ u.pins = s.pins
  staged : c ≠ .configurationWrite → u.store.staged = s.store.staged

theorem Unmoved.refl (c : Instr) (s : State) : Unmoved c s s := ⟨rfl, rfl, fun _ => ⟨rfl, rfl⟩, fun _ => rfl⟩

theorem Unmoved.trans {c : Instr} {s t u : State} (h : Unmoved c s t) (g : Unmoved c t u) : Unmoved c s u :=
  ⟨g.page.trans h.page, g.pending.trans h.pending,
    fun n => ⟨(g.clock n).1.trans (h.clock n).1, (g.clock n).2.trans (h.clock n).2⟩,
    fun n => (g.staged n).trans (h.staged n)⟩

theorem Unmoved.of_same {c : Instr} {s u : State} (store : u.store = s.store) (pending : u.pending = s.pending)
    (ms : u.ms = s.ms) (pins : u.pins = s.pins) : Unmoved c s u :=
  ⟨by rw [store], pending, fun _ => ⟨ms, pins⟩, fun _ => by rw [store]⟩

/-- A step ahead that leaves the fields in question as they are. -/
theorem Unmoved.before {c : Instr} {s t u : State} (h : Unmoved c t u) (store : t.store = s.store)
    (pending : t.pending = s.pending) (ms : t.ms = s.ms) (pins : t.pins = s.pins) : Unmoved c s u :=
  (Unmoved.of_same store pending ms pins).trans h

theorem Unmoved.inside {c : Instr} {s u : State} (h : Inside s u) : Unmoved c s u :=
  ⟨h.page, h.pending, fun _ => ⟨h.ms, h.pins⟩, fun _ => h.staged⟩

/-- What the command c keeps on its way from s to u, storing `x` and nothing else. -/
structure Keeps (c : Instr) (s u : State) (x : Option (Word × Word)) : Prop where
  inv : s.Inv → u.Inv
  image : u.image = imageWith s.image x
  unmoved : (∀ g, c ≠ .hardwareReset g) → Unmoved c s u

theorem Keeps.refl (c : Instr) (s : State) : Keeps c s s none := ⟨id, rfl, fun _ => .refl c s⟩

theorem imageWith_trans {m n o : Memory} {x y : Option (Word × Word)} (one : x = none ∨ y = none)
    (first : n = imageWith m x) (second : o = imageWith n y) : o = imageWith m (x.or y) := by
  rcases one with rfl | rfl
  · rw [second, first]; rfl
  · rw [second, first, Option.or_none]; rfl

/-- One after the other, where at most one of the two stores. -/
theorem Keeps.trans {c : Instr} {s t u : State} {x y : Option (Word × Word)} (h : Keeps c s t x) (g : Keeps c t u y)
    (one : x = none ∨ y = none) : Keeps c s u (x.or y) :=
  ⟨fun i => g.inv (h.inv i), imageWith_trans one h.image g.image, fun n => (h.unmoved n).trans (g.unmoved n)⟩

theorem Keeps.andThen {c : Instr} {s t u : State} (h : Keeps c s t none) (g : Keeps c t u none) : Keeps c s u none :=
  h.trans g (.inl rfl)

theorem Keeps.ports {c : Instr} {s t : State} (h : PortsOnly s t) : Keeps c s t none := by
  obtain ⟨p, f, l, rfl⟩ := h
  exact ⟨PortsOnly.inv ⟨p, f, l, rfl⟩, rfl, fun _ => .of_same rfl rfl rfl rfl⟩

/-- Whatever a row does once the plain reads ahead are carried, it does to the state the command met. -/
theorem Keeps.after_ports {c : Instr} {s t u : State} {x : Option (Word × Word)} (h : PortsOnly s t)
    (g : Keeps c t u x) : Keeps c s u x :=
  (Keeps.ports h).trans g (.inl rfl)

/-- An operation inside an event, its invariant shown apart. -/
theorem Keeps.of_inside {c : Instr} {s v : State} (h : Inside s v) (inv : s.Inv → v.Inv) : Keeps c s v none :=
  ⟨inv, h.image, fun _ => .inside h⟩

/-- An event, with its end. -/
theorem Keeps.event {c : Instr} {s v : State} (h : Inside s v) : Keeps c s (v.finish s) none :=
  .of_inside (h.trans (.finish v s)) fun i => i.event (.refl s) h

/-- An event that is due, or not. -/
theorem Keeps.due {c : Instr} {s : State} (b : Bool) {f : State → State} (h : Inside s (f s)) :
    Keeps c s (s.event b f) none := by
  unfold State.event
  split
  · exact .event h
  · exact .refl c s

/-! ## A word stored beside the status words -/

theorem PortsOnly.sound {s t : State} (h : PortsOnly s t) (x : s.Sound) : t.Sound := by
  obtain ⟨p, f, l, rfl⟩ := h
  exact ⟨x.dirtyOrdered, x.oneInjectionEach, x.canonical, x.addressesOutside, x.demandsMet, x.latchHolds⟩

/-- No operation inside an event reads the ports or the arbiter. -/
theorem Inside.withPorts {s v : State} (h : Inside s v) (p f : Port) (l : Requester) :
    Inside { s with pPort := p, fPort := f, lastGranted := l } { v with pPort := p, fPort := f, lastGranted := l } :=
  ⟨⟨h.image, h.page, h.staged, rfl, rfl, rfl, h.locks, h.ms, h.pins, h.pending, h.dirty, h.dirtyOrdered,
    h.oneInjectionEach, h.canonical, h.addressesOutside⟩, h.demandsMet, h.latchHolds⟩

/-- An event that begins with a change beside the status words, a port freed in it. -/
theorem Keeps.beside {c : Instr} {s t v w : State} {x : Option (Word × Word)} (keeps : Keeps c s t x)
    (beside : s.Inv → Beside s t) (h : Inside t v) (ports : PortsOnly v w) : Keeps c s (w.finish s) x := by
  obtain ⟨p, f, l, rfl⟩ := ports
  have end_ := (h.withPorts p f l).trans (Inside.finish _ s)
  have after : Unmoved c _ _ := .inside end_
  refine ⟨fun i => ?_, end_.image.trans keeps.image, fun n =>
    (keeps.unmoved n).trans (after.before rfl rfl rfl rfl)⟩
  · obtain ⟨page, dirty, words, sound⟩ := beside i
    have ports : PortsOnly t { t with pPort := p, fPort := f, lastGranted := l } := ⟨p, f, l, rfl⟩
    exact State.Inv.event (u := { t with pPort := p, fPort := f, lastGranted := l }) i
      ⟨page, dirty, words, fun y => ports.sound (sound y)⟩ (h.withPorts p f l)

/-- A word stored changes no image, so one that is no status word leaves them all current. -/
theorem State.Inv.of_beside {s t : State} (i : s.Inv) (h : Beside s t) (settled : t.settled)
    (report : ∀ off, t.reportImage off = s.reportImage off) : t.Inv := by
  refine ⟨h.sound i.sound, settled, fun off mem clean => ?_⟩
  rw [State.readImage, h.page, h.words off mem, report]
  exact i.statusCurrent off mem (h.dirty ▸ clean)

theorem Keeps.storeWord {c : Instr} {s : State} {a : Word}
    (apart : s.Inv → ∀ off ∈ statusOffsets, guardAddress s.store.page off ≠ a) (w : Word) :
    Keeps c s (s.storeWord a w) (some (a, w)) :=
  ⟨fun i => i.of_beside (.storeWord s a w i.sound.canonical.1 (apart i)) i.settled fun _ => rfl, rfl,
    fun _ => .of_same rfl rfl rfl rfl⟩

/-- An event that first stores a word which is no status word. -/
theorem Keeps.stored {c : Instr} {s v w : State} {a x : Word}
    (apart : s.Inv → ∀ off ∈ statusOffsets, guardAddress s.store.page off ≠ a) (h : Inside (s.storeWord a x) v)
    (ports : PortsOnly v w) : Keeps c s (w.finish s) (some (a, x)) :=
  (Keeps.storeWord apart x).beside (fun i => .storeWord s a x i.sound.canonical.1 (apart i)) h ports

/-- The same of an event that stores nothing. -/
theorem Keeps.unstored {c : Instr} {s v w : State} (h : Inside s v) (ports : PortsOnly v w) :
    Keeps c s (w.finish s) none :=
  (Keeps.refl c s).beside (fun _ => .refl s) h ports

/-- An event that begins with the turn of a lock filter. -/
theorem Keeps.eventOfLock {c : Instr} {s v : State} (b : SecId) (h : Inside (s.turnLock b) v) :
    Keeps c s (v.finish s) none := by
  have end_ := h.trans (Inside.finish v s)
  have after : Unmoved c _ _ := .inside end_
  exact ⟨fun i => i.event (Beside.turnLock s b) h, end_.image, fun _ => after.before rfl rfl rfl rfl⟩

/-! ## A report word stored (R28, R32) -/

/-- The current image of a report word stored, what the freeing of its slot's context does, and the end of the event. -/
theorem Keeps.storeReport {c : Instr} {s u v : State} {off : Nat} (h : Inside s u)
    (current : s.Inv → ∀ x ∈ statusOffsets, x ∉ u.dirty →
      u.readImage (guardAddress u.store.page x) = u.reportImage x)
    (report : s.Inv → isReportOffset off = true) (g : Inside (u.storeReport off) v) :
    Keeps c s (v.finish u) (some (guardAddress s.store.page off, u.reportImage off)) := by
  have end_ := g.trans (Inside.finish v u)
  have after : Unmoved c _ _ := .inside end_
  refine ⟨fun i => i.storeReport h (current i) (report i) g, ?_,
    fun _ => (Unmoved.inside h).trans (after.before rfl rfl rfl rfl)⟩
  rw [end_.image]
  show u.image.write (guardAddress u.store.page off).toNat _ = _
  rw [h.image, h.page]
  rfl

/-- A write to a report word (R28). -/
theorem Keeps.storeCleared {c : Instr} {s u : State} {off : Nat} (h : Inside s u) (report : isReportOffset off = true) :
    Keeps c s (u.storeCleared s off) (some (guardAddress s.store.page off, (u.markChanged s).reportImage off)) :=
  .storeReport (h.trans (.markChanged u s)) (fun i => markChanged_current i h) (fun _ => report) (.slotWritten _ off)

/-! ## The rows without an access -/

theorem keeps_of_next {c : Instr} {s t u : State} {x : Option (Word × Word)} (h : Keeps c s t x)
    (e : Host.Outcome.next t = (.next u : Host.Outcome State Fault Refusal)) : Keeps c s u x := by
  cases e
  exact h

/-- What a row without an access does: nothing, or an event; that of a lock begins with the turn of its filter. -/
inductive Happens (s : State) : State → Prop
  | nothing : Happens s s
  | event {v : State} (h : Inside s v) : Happens s (v.finish s)
  | lock {v : State} (b : SecId) (h : Inside (s.turnLock b) v) : Happens s (v.finish s)

theorem Happens.due {s : State} (due : Bool) {f : State → State} (h : Inside s (f s)) : Happens s (s.event due f) := by
  cases due with
  | true => exact .event h
  | false => exact .nothing

theorem Happens.dueLock {s : State} (due : Bool) (b : SecId) {f : State → State} (h : Inside (s.turnLock b) (f s)) :
    Happens s (s.event due f) := by
  cases due with
  | true => exact .lock b h
  | false => exact .nothing

theorem Happens.keeps {c : Instr} {s u : State} (h : Happens s u) : Keeps c s u none := by
  cases h with
  | nothing => exact .refl c s
  | event h => exact .event h
  | lock b h => exact .eventOfLock b h

/-- No event moves a port. -/
theorem Happens.ports {s u : State} (h : Happens s u) : u.pPort = s.pPort ∧ u.fPort = s.fPort := by
  cases h with
  | nothing => exact ⟨rfl, rfl⟩
  | event h =>
    have whole := h.trans (.finish _ s)
    exact ⟨whole.pPort, whole.fPort⟩
  | lock b h =>
    have whole := h.trans (.finish _ s)
    exact ⟨whole.pPort, whole.fPort⟩

section
variable (s : State)

theorem happens_healthLevelFall (n : SrcId) : Happens s (stateOf s (execHealthLevelFall n s)) :=
  Happens.due (f := fun s => s.healthFalls n) _ (.healthFalls s n)

theorem happens_healthLevelRise (n : SrcId) : Happens s (stateOf s (execHealthLevelRise n s)) :=
  Happens.due (f := fun s => s.healthRises n) _ (.healthRises s n)

theorem happens_lockLevelRise (b : SecId) : Happens s (stateOf s (execLockLevelRise b s)) :=
  Happens.dueLock (f := fun s => s.lockRises b) _ b (.lockRises s b)

theorem happens_lockLevelFall (b : SecId) : Happens s (stateOf s (execLockLevelFall b s)) :=
  Happens.dueLock (f := fun s => (s.turnLock b).evaluate assign none [b]) _ b (.evaluate Inside.assign none [b] _)

theorem happens_eopFilteredChange : Happens s (stateOf s (execEopFilteredChange s)) :=
  Happens.due (f := State.eopChanges) _ (.eopChanges s)

theorem happens_eopFilterSeed : Happens s (stateOf s (execEopFilterSeed s)) :=
  Happens.due (f := fun s => { s with latch := { s.latch with filter := { level := s.pins.eop, count := 0, change := false }, seed := .seeded } }) _ (.light rfl)

theorem happens_syncLevelChange : Happens s (stateOf s (execSyncLevelChange s)) := by
  show Happens s (match s.sync.hold with
    | some h => s.event h.filter.change fun s => s.changeHold h { h with filter := h.filter.turn }
    | none => s)
  split
  · exact .due _ (.changeHold s _ _)
  · exact .nothing

theorem happens_syncGrant : Happens s (stateOf s (execSyncGrant s)) :=
  Happens.due (f := grantHead Config.takingDepth) _ (.grantHead _ s)

theorem happens_rideThroughExpiry (n : SrcId) : Happens s (stateOf s (execRideThroughExpiry n s)) :=
  Happens.due (f := fun s => s.rideExpires n) _ (.rideExpires s n)

theorem happens_stabilityExpiry (n : SrcId) : Happens s (stateOf s (execStabilityExpiry n s)) :=
  Happens.due (f := fun s => s.stabilityExpires n) _ (.stabilityExpires s n)

theorem happens_coolDownExpiry (n : SrcId) : Happens s (stateOf s (execCoolDownExpiry n s)) :=
  Happens.due (f := fun s => s.updSource n fun x => { x with cool := none }) _ (.updSource s n _ fun _ => rfl)

theorem happens_operateDeadlineExpiry (d : DevId) : Happens s (stateOf s (execOperateDeadlineExpiry d s)) := by
  show Happens s (match s.deadlineDue d with
    | some code => (s.missDeadline d code).finish s
    | none => s)
  split
  · exact .event (.missDeadline s d _)
  · exact .nothing

theorem happens_startLimitExpiry (k : CtxId) : Happens s (stateOf s (execStartLimitExpiry k s)) :=
  Happens.due (f := fun s => s.startLimitExpires k) _ (.startLimitExpires s k)

theorem happens_deadBusExpiry (k : CtxId) : Happens s (stateOf s (execDeadBusExpiry k s)) :=
  Happens.due (f := fun s => enterClosing assign k (s.stopTimer k)) _ ((Inside.stopTimer s k).trans (.enterClosing Inside.assign k _))

theorem happens_restoreStaggerExpiry (k : CtxId) : Happens s (stateOf s (execRestoreStaggerExpiry k s)) := by
  refine Happens.due (f := fun s => if (s.context k).phase = .restoring then restoreNext assign k (s.stopTimer k)
    else s.stopTimer k) _ ?_
  show Inside s (if (s.context k).phase = .restoring then restoreNext assign k (s.stopTimer k) else s.stopTimer k)
  split
  · exact (Inside.stopTimer s k).trans (.restoreNext Inside.assign k _)
  · exact .stopTimer s k

theorem happens_settleExpiry : Happens s (stateOf s (execSettleExpiry s)) := by
  show Happens s (match s.sync.hold with
    | some h => s.event (s.due h.settle) fun s => s.changeHold h { h with settle := none }
    | none => s)
  split
  · exact .due _ (.changeHold s _ _)
  · exact .nothing

theorem happens_syncWindowExpiry : Happens s (stateOf s (execSyncWindowExpiry s)) := by
  show Happens s (match s.sync.hold with
    | some h => s.event (h.window == s.ms) fun s => s.windowExpires h
    | none => s)
  split
  · exact .due _ (.windowExpires s _)
  · exact .nothing

theorem happens_overlapExpiry (k : CtxId) : Happens s (stateOf s (execOverlapExpiry k s)) :=
  Happens.due (f := fun s => endOverlap assign k true (s.stopTimer k)) _ ((Inside.stopTimer s k).trans (.endOverlap Inside.assign k true _))

end

/-! ## Hardware reset and the tick -/

theorem hardReset_inv {s : State} (strap : BitVec 4) (i : s.Inv) : (s.hardReset strap).Inv := by
  obtain ⟨⟨ordered, one, ⟨_, staged, log, _⟩, _, met, latch⟩, settled, _⟩ := resetIsSound
  have sound : (s.hardReset strap).Sound :=
    ⟨ordered, one, ⟨i.sound.canonical.1, staged, log, fun _ waits => by cases waits⟩,
      ⟨boardOf_nil_outside strap, fun _ waits => by cases waits⟩, met, latch⟩
  exact ⟨sound, settled, fun off mem clean => absurd mem clean⟩

theorem keeps_hardwareReset (s : State) (strap : BitVec 4) :
    Keeps (.hardwareReset strap) s (s.hardReset strap) none :=
  ⟨hardReset_inv strap, rfl, fun other => absurd rfl (other strap)⟩

/-- Events one after another. -/
inductive HappenInTurn (s : State) : State → Prop where
  | refl : HappenInTurn s s
  | tail {t u : State} (before : HappenInTurn s t) (last : Happens t u) : HappenInTurn s u

theorem HappenInTurn.single {s t : State} (h : Happens s t) : HappenInTurn s t := .tail .refl h

theorem HappenInTurn.trans {s t u : State} (h : HappenInTurn s t) (h' : HappenInTurn t u) : HappenInTurn s u := by
  induction h' with
  | refl => exact h
  | tail _ last ih => exact ih.tail last

theorem HappenInTurn.head {s t u : State} (first : Happens s t) (h : HappenInTurn t u) : HappenInTurn s u :=
  (HappenInTurn.single first).trans h

theorem events_each {α : Type} {row : α → State → Host.Outcome State Fault Refusal}
    (h : ∀ s x, Happens s (stateOf s (row x s))) (xs : List α) (s : State) : HappenInTurn s (eachOf xs row s) := by
  induction xs generalizing s with
  | nil => exact .refl
  | cons x xs ih => exact .head (h s x) (ih _)

theorem events_once {row : State → Host.Outcome State Fault Refusal} (h : ∀ s, Happens s (stateOf s (row s)))
    (s : State) : HappenInTurn s (once row s) := .single (h s)

/-- What a tick finds left over is a row of events (log 2). -/
theorem leftChanges_happen (s : State) : HappenInTurn s s.leftChanges :=
  ((((((events_once happens_eopFilterSeed s).trans (events_each happens_healthLevelRise _ _)).trans
    (events_each happens_healthLevelFall _ _)).trans (events_each happens_lockLevelRise _ _)).trans
    (events_each happens_lockLevelFall _ _)).trans (events_once happens_eopFilteredChange _)).trans
    (events_once happens_syncLevelChange _)

theorem leftExpiries_happen (s : State) : HappenInTurn s s.leftExpiries :=
  (((((((((events_each happens_rideThroughExpiry _ s).trans (events_each happens_stabilityExpiry _ _)).trans
    (events_each happens_coolDownExpiry _ _)).trans (events_each happens_operateDeadlineExpiry _ _)).trans
    (events_each happens_startLimitExpiry _ _)).trans (events_each happens_deadBusExpiry _ _)).trans
    (events_each happens_restoreStaggerExpiry _ _)).trans (events_once happens_settleExpiry _)).trans
    (events_once happens_syncWindowExpiry _)).trans (events_each happens_overlapExpiry _ _)

theorem leftEvents_happen (s : State) : HappenInTurn s s.leftEvents :=
  ((leftChanges_happen s).trans (leftExpiries_happen _)).trans (events_once happens_syncGrant _)

theorem HappenInTurn.keeps {c : Instr} {s u : State} (h : HappenInTurn s u) : Keeps c s u none := by
  induction h with
  | refl => exact .refl c s
  | tail _ last ih => exact ih.trans last.keeps (.inl rfl)

theorem HappenInTurn.ports {s u : State} (h : HappenInTurn s u) : u.pPort = s.pPort ∧ u.fPort = s.fPort := by
  induction h with
  | refl => exact ⟨rfl, rfl⟩
  | tail _ last ih => exact ⟨last.ports.1.trans ih.1, last.ports.2.trans ih.2⟩

/-- The lines sampled: no filtered level moves, for a change of one is an event of its own. -/
structure Sampled (s t : State) : Prop where
  source : ∀ n, (t.source n).state = (s.source n).state ∧ (t.source n).health.level = (s.source n).health.level ∧
    (t.source n).demand = (s.source n).demand ∧ (t.source n).cool = (s.source n).cool
  lock : ∀ b, t.isLocked b = s.isLocked b
  latch : t.latch.isSet = s.latch.isSet ∧ t.latch.filter.level = s.latch.filter.level
  rest : ∃ ms pins sources locks latch sync,
    t = { s with ms := ms, pins := pins, sources := sources, locks := locks, latch := latch, sync := sync }

theorem Sampled.partWord {s t : State} (h : Sampled s t) : t.partWord = s.partWord := by
  obtain ⟨_, _, latch, ms, pins, sources, locks, latch', sync, rfl⟩ := h
  unfold State.partWord
  rw [latch.1, latch.2]
  rfl

theorem Sampled.sectionWord {s t : State} (h : Sampled s t) (b : SecId) : t.sectionWord b = s.sectionWord b := by
  obtain ⟨_, lock, _, ms, pins, sources, locks, latch', sync, rfl⟩ := h
  unfold State.sectionWord
  rw [lock]
  rfl

theorem Sampled.sourceWord {s t : State} (h : Sampled s t) (n : SrcId) : t.sourceWord n = s.sourceWord n := by
  obtain ⟨source, _, _, ms, pins, sources, locks, latch', sync, rfl⟩ := h
  obtain ⟨state, level, demand, cool⟩ := source n
  unfold State.sourceWord State.rq
  dsimp only
  rw [state, level, demand, cool]
  rfl

/-- The images show levels, and none of what a sample moves. -/
theorem Sampled.reportImage {s t : State} (h : Sampled s t) (off : Nat) : t.reportImage off = s.reportImage off := by
  have part := h.partWord
  have sections : t.sectionWord = s.sectionWord := funext h.sectionWord
  have sources : t.sourceWord = s.sourceWord := funext h.sourceWord
  have plant : t.plantImage off = s.plantImage off := by
    unfold State.plantImage
    rw [sections, sources]
    obtain ⟨_, _, _, ms, pins, sources, locks, latch', sync, rfl⟩ := h
    rfl
  unfold State.reportImage
  rw [part, plant]
  obtain ⟨_, _, _, ms, pins, sources, locks, latch', sync, rfl⟩ := h
  rfl

theorem Sampled.inv {s t : State} (h : Sampled s t) (i : s.Inv) : t.Inv := by
  have report := h.reportImage
  obtain ⟨source, _, latch, ms, pins, sources, locks, latch', sync, rfl⟩ := h
  obtain ⟨ordered, one, canonical, outside, met, holds⟩ := i.sound
  refine ⟨⟨ordered, one, canonical, outside, fun n generator closed => ?_, fun isSet => holds (latch.1.symm.trans isSet)⟩,
    i.settled, fun off mem clean => ?_⟩
  · rw [(source n).2.2.1]
    exact met n generator closed
  · rw [report]
    exact i.statusCurrent off mem clean

/-- A tick's samples move no filtered level. -/
theorem sampled_sampleLines (s : State) (ms : Ms) (sh lk : BitVec 4) (eop sync : Bool) :
    Sampled s (({ s with ms := ms, pins := { sh := sh, lk := lk, eop := eop, sync := sync } }).sampleLines sh lk eop
      sync) := by
  unfold State.sampleLines
  split
  · refine ⟨fun n => ?_, fun b => ?_, ?_, _, _, _, _, _, _, rfl⟩
    · unfold State.source State.sampleHealth
      simp only [Four.get_ofFn, sample_level]
      exact ⟨rfl, rfl, rfl, rfl⟩
    · unfold State.isLocked State.sampleLocks
      simp only [Four.get_ofFn, sample_level]
    · show (s.latch.sample eop).isSet = _ ∧ (s.latch.sample eop).filter.level = _
      unfold Latch.sample
      split
      · exact ⟨rfl, sample_level _ _ _⟩
      · exact ⟨rfl, rfl⟩
      · exact ⟨rfl, rfl⟩
      · exact ⟨rfl, rfl⟩
  · exact ⟨fun n => ⟨rfl, rfl, rfl, rfl⟩, fun b => rfl, ⟨rfl, rfl⟩, _, _, _, _, _, _, rfl⟩

/-- The state that a tick leaves. -/
def State.ticked (s : State) (sh lk : BitVec 4) (eop sync : Bool) : State :=
  ({ s.leftEvents with
      ms := s.leftEvents.ms + 1, pins := { sh := sh, lk := lk, eop := eop, sync := sync } }).sampleLines sh lk eop sync

theorem exec_millisecondTick (sh lk : BitVec 4) (eop sync : Bool) (s : State) :
    exec (.millisecondTick sh lk eop sync) s = .next (s.ticked sh lk eop sync) := rfl

/-- The count advanced and the lines sampled, once nothing of the millisecond is left over. -/
theorem keeps_sampleLines (s : State) (ms : Ms) (sh lk : BitVec 4) (eop sync : Bool) :
    Keeps (.millisecondTick sh lk eop sync) s
      (({ s with ms := ms, pins := { sh := sh, lk := lk, eop := eop, sync := sync } }).sampleLines sh lk eop sync)
      none := by
  have sampled := sampled_sampleLines s ms sh lk eop sync
  refine ⟨sampled.inv, ?_, fun _ => ?_⟩ <;> obtain ⟨_, _, _, ms', pins, sources, locks, latch, sync', same⟩ := sampled
  · rw [same]
    rfl
  · rw [same]
    exact ⟨rfl, rfl, fun other => absurd rfl (other sh lk eop sync), fun _ => rfl⟩

theorem keeps_millisecondTick (sh lk : BitVec 4) (eop sync : Bool) (s : State) :
    Keeps (.millisecondTick sh lk eop sync) s (s.ticked sh lk eop sync) none :=
  (leftEvents_happen s).keeps.andThen (keeps_sampleLines _ _ sh lk eop sync)

end Sys2Proof.Machine
end

section
/-! PROOFS. What each command does to memory: the address of the one word it stores is the one that `State.storesAt` works
out, and where the word is a CLOSE of a device the guard has passed it. With what a row keeps this settles the four
statements about every command. -/

namespace Sys2Proof.Machine

/-! ## Command words among the addresses (R22) -/

/-- The command word of a device of the working table is classed as that device's: the words of the table lie outside the
guard page and apart. -/
theorem classify_command {s : State} {d : DevId} (i : s.Inv) (record : s.hasRecord d = true) :
    s.classify (s.entry d).command = .command d := by
  have outside := i.sound.addressesOutside.1
  have used : ∀ {e : DevId}, s.hasRecord e = true → (s.board.devices.get e).kind ≠ .unused := fun h =>
    (hasRecord_iff s _).1 h
  obtain ⟨outside_page, _, _⟩ := outside d (used record)
  have found : (allDevices.find? fun e => s.hasRecord e && (s.entry e).command == (s.entry d).command) = some d := by
    cases find : allDevices.find? fun e => s.hasRecord e && (s.entry e).command == (s.entry d).command with
    | none =>
      have none := List.find?_eq_none.1 find d (mem_allDevices d)
      simp [record] at none
    | some e =>
      have same := List.find?_some find
      simp only [Bool.and_eq_true, beq_iff_eq] at same
      obtain ⟨_, _, apart⟩ := outside e (used same.1)
      by_cases own : e = d
      · rw [own]
      · exact absurd same.2 ((apart d (used record)).2 own).1
  unfold State.classify
  rw [if_neg (by rw [State.entry, outside_page]; simp), found]

/-- The guard has passed the CLOSE of every device whose command word stands at an address: as a processor write, or as an
injection that the command carries. -/
def State.guards (s : State) (c : Instr) (a w : Word) : Prop :=
  ∀ d, s.hasRecord d = true → (s.entry d).command = a → commandCode w = some .cls →
    ∃ as, s.closeSafe as d ∧ (as = .processorWrite ∨ c = .injectionWrite ∨ c = .scannerCommandRead)

/-- A word of another class is no command word. -/
theorem guards_of_class {s : State} (c : Instr) {a : Word} (w : Word) (i : s.Inv)
    (other : ∀ d, s.classify a ≠ .command d) : s.guards c a w := by
  intro d record address
  exact absurd (address ▸ classify_command i record) (other d)

/-- A word that codes no CLOSE needs no leave. -/
theorem guards_of_code {s : State} (c : Instr) {a w : Word} (code : commandCode w ≠ some .cls) : s.guards c a w :=
  fun _ _ _ close => absurd close code

theorem guards_of_command {s : State} {c : Instr} {a w : Word} {d : DevId} {as : JudgedAs} (i : s.Inv)
    (hclass : s.classify a = .command d) (safe : s.closeSafe as d)
    (how : as = .processorWrite ∨ c = .injectionWrite ∨ c = .scannerCommandRead) : s.guards c a w := by
  intro e record address _
  have same := classify_command i record
  rw [address, hclass] at same
  cases same
  exact ⟨as, safe, how⟩

/-! ## Rows -/

/-- What a command does: what it keeps, the word it stores, at the address that `storesAt` gives and with the guard's
leave. -/
structure Row (c : Instr) (s u : State) (x : Option (Word × Word)) : Prop where
  keeps : Keeps c s u x
  address : s.storesAt c = x.map Prod.fst
  guarded : s.Inv → ∀ a w, x = some (a, w) → s.guards c a w

theorem Row.silent {c : Instr} {s u : State} (keeps : Keeps c s u none) (address : s.storesAt c = none) :
    ∃ x, Row c s u x :=
  ⟨none, keeps, address, fun _ _ _ stored => by cases stored⟩

theorem PortsOnly.judge {s t : State} (h : PortsOnly s t) (as : JudgedAs) (d : DevId) (c : Option Cmd) :
    t.judge as d c = s.judge as d c := by
  obtain ⟨p, f, l, rfl⟩ := h
  rfl

theorem PortsOnly.classify {s t : State} (h : PortsOnly s t) (a : Word) : t.classify a = s.classify a := by
  obtain ⟨p, f, l, rfl⟩ := h
  rfl

theorem PortsOnly.guards {s t : State} (h : PortsOnly s t) {c : Instr} {a w : Word} (g : t.guards c a w) :
    s.guards c a w := by
  obtain ⟨p, f, l, rfl⟩ := h
  exact g

/-- What a granted write does, from the state of the grant on: nothing is taken that the row does not take, and what it
takes is stored. -/
inductive Granted (c : Instr) (t : State) (a : Access) (takes : Bool) : Option State → Prop
  | stores {u : State} {w : Word} (taken : takes = true) (keeps : Keeps c t u (some (a.addr, w)))
      (guarded : t.Inv → t.guards c a.addr w) : Granted c t a takes (some u)
  | silent {u : State} (left : takes = false) (keeps : Keeps c t u none) : Granted c t a takes (some u)
  | nothing (left : takes = false) : Granted c t a takes none

/-- A row that is a port's write, `takes` the accesses that it stores for. -/
theorem row_grantWrite {c : Instr} {q : PortId} {f : Access → State → Option State} {s : State}
    {takes : State → Access → WordClass → Bool} (address : s.storesAt c = s.writesAt q (takes s))
    (ports : ∀ t, PortsOnly s t → takes t = takes s)
    (carry : ∀ a t, Granted c t a (takes t a (t.classify a.addr)) (f a t)) :
    ∃ x, Row c s (s.grantWrite q f) x := by
  have only := portsOnly_granted s q
  unfold State.writesAt at address
  by_cases turn : s.serveReads.nextPort = some q
  · cases held : (s.serveReads.port q).access with
    | none =>
      refine Row.silent ?_ (by rw [address, if_pos turn, held]; rfl)
      unfold State.grantWrite State.grant
      dsimp only
      rw [held]
      exact .refl c s
    | some a =>
      rw [if_pos turn, held] at address
      cases dir : a.dir with
      | read =>
        refine Row.silent ?_ (by rw [address]; simp [Option.filter, dir])
        unfold State.grantWrite State.grant
        dsimp only
        rw [held]
        dsimp only
        rw [if_pos turn, dir]
        exact .refl c s
      | write =>
        have granted : s.grantsWrite q a := ⟨turn, held, dir⟩
        have carried := carry a (s.granted q)
        rw [ports _ only, only.classify] at carried
        rw [grantWrite_of s q a f granted]
        generalize f a (s.granted q) = result at carried
        cases carried with
        | stores taken keeps guarded =>
          refine ⟨_, keeps.after_ports only, by rw [address]; simp [Option.filter, dir, taken], fun i b w stored => ?_⟩
          cases stored
          exact only.guards (guarded (only.inv i))
        | silent left keeps => exact Row.silent (keeps.after_ports only) (by rw [address]; simp [Option.filter, dir, left])
        | nothing left => exact Row.silent (.refl c s) (by rw [address]; simp [Option.filter, dir, left])
  · refine Row.silent ?_ (by rw [address, if_neg turn])
    rw [show s.grantWrite q f = s from ?_]
    · exact .refl c s
    · rcases grantWrite_cases s q f with same | ⟨_, _, ⟨now, _⟩, _⟩
      · exact same
      · exact absurd now turn

theorem stateOf_next (s t : State) : stateOf s (.next t) = t := rfl

/-- A granted write that stores nothing. -/
theorem row_grantWrite_silent {c : Instr} {q : PortId} {f : Access → State → Option State} (s : State)
    (address : s.storesAt c = none) (carry : ∀ a t u, f a t = some u → Keeps c t u none) :
    ∃ x, Row c s (s.grantWrite q f) x := by
  refine Row.silent ?_ address
  rcases grantWrite_cases s q f with same | ⟨a, t, _, done, same⟩
  · rw [same]
    exact .refl c s
  · rw [same]
    exact (carry a _ t done).after_ports (portsOnly_granted s q)

/-! ## Writes to command and position words -/

theorem row_processorOpen (s : State) : ∃ x, Row .processorOpen s (stateOf s (execProcessorOpen s)) x := by
  refine row_grantWrite (c := .processorOpen) (q := .p) (s := s) (takes := fun _ a c => match c with
    | .command _ => commandCode a.data == some .opn
    | _ => false) rfl (fun _ _ => rfl) fun a t => ?_
  unfold commandWrite
  cases hclass : t.classify a.addr with
  | command d =>
    by_cases code : commandCode a.data = some .opn
    · rw [code]
      refine .stores rfl (.stored (fun _ => not_status_of_classify fun off => by rw [hclass]; simp) (.processorOpens t d a)
        (.refl _)) fun _ => guards_of_code _ ?_
      rw [commandCode_commandWord]
      simp
    · simp only [if_neg code]
      exact .nothing (by simpa using code)
  | _ => exact .nothing rfl

theorem row_processorClose (s : State) : ∃ x, Row .processorClose s (stateOf s (execProcessorClose s)) x := by
  refine row_grantWrite (c := .processorClose) (q := .p) (s := s) (takes := fun t a c => match c with
    | .command d => commandCode a.data == some .cls && (t.judge .processorWrite d (some .cls)).passes
    | _ => false) rfl (fun t only => ?_) fun a t => ?_
  · obtain ⟨p, f, l, rfl⟩ := only
    rfl
  unfold commandWrite
  cases hclass : t.classify a.addr with
  | command d =>
    by_cases code : commandCode a.data = some .cls
    · simp only [code, if_true, BEq.rfl, Bool.true_and]
      rcases Inside.processorCloses t d a with ⟨x, pass, stored⟩ | ⟨held, inside⟩
      · refine .stores (by rw [pass]; rfl) (.stored (fun _ => not_status_of_classify fun off => by rw [hclass]; simp) stored
          (.refl _)) fun i => guards_of_command i hclass (closeSafe_of_pass pass) (.inl rfl)
      · refine .silent ?_ (.event inside)
        cases verdict : t.judge .processorWrite d (some .cls) with
        | pass x => exact absurd verdict (held x)
        | defer => rfl
        | refuse _ => rfl
    · simp only [if_neg code]
      exact .nothing (by simp [code])
  | _ => exact .nothing rfl

theorem row_malformedCommandWrite (s : State) :
    ∃ x, Row .malformedCommandWrite s (stateOf s (execMalformedCommandWrite s)) x := by
  refine row_grantWrite_silent (c := .malformedCommandWrite) s rfl fun a t u done => ?_
  unfold commandWrite at done
  split at done
  · split at done
    · cases done
      exact .event (.raise t _)
    · cases done
  · cases done

theorem row_positionWrite (s : State) : ∃ x, Row .positionWrite s (stateOf s (execPositionWrite s)) x := by
  rw [execPositionWrite, stateOf_next]
  refine row_grantWrite_silent (c := .positionWrite) s rfl fun a t u done => ?_
  split at done
  · cases done
    exact .event (.raise t _)
  · cases done

theorem row_fieldWrite (s : State) : ∃ x, Row .fieldWrite s (stateOf s (execFieldWrite s)) x := by
  rw [execFieldWrite, stateOf_next]
  refine row_grantWrite_silent (c := .fieldWrite) s rfl fun a t u done => ?_
  split at done
  · cases done
    exact .event (.raise t _)
  · cases done

theorem row_positionWord (s : State) : ∃ x, Row .positionWord s (stateOf s (execPositionWord s)) x := by
  rw [execPositionWord, stateOf_next]
  refine row_grantWrite (c := .positionWord) (q := .f) (s := s) (takes := fun _ _ c => match c with
    | .position _ => true
    | _ => false) rfl (fun _ _ => rfl) fun a t => ?_
  cases hclass : t.classify a.addr with
  | position d =>
    exact .stores rfl (.stored (fun _ => not_status_of_classify fun off => by rw [hclass]; simp) (.takePosition _ d a.data)
      (.refl _)) fun i => guards_of_class _ _ i fun d => by rw [hclass]; simp
  | _ => exact .nothing rfl

/-! ## Other words, configuration words -/

theorem row_otherWordWrite (q : PortId) (s : State) :
    ∃ x, Row (.otherWordWrite q) s (stateOf s (execOtherWordWrite q s)) x := by
  rw [execOtherWordWrite, stateOf_next]
  refine row_grantWrite (c := .otherWordWrite q) (q := q) (s := s) (takes := fun t a c => match c, q with
    | .other, .p => true
    | .other, .f => !inGuardPage t.store.page a.addr
    | .control off, .p => off == 0x100 && field a.data 0 3 == 0
    | _, _ => false) rfl (fun t only => ?_) fun a t => ?_
  · obtain ⟨p, f, l, rfl⟩ := only
    rfl
  have plain : (∀ off, t.classify a.addr ≠ .report off) → (∀ d, t.classify a.addr ≠ .command d) → ∀ w,
      Granted (.otherWordWrite q) t a true (some (t.storeWord a.addr w)) := fun not_report not_command w =>
    .stores rfl (.storeWord (fun _ => not_status_of_classify not_report) w) fun i => guards_of_class _ _ i not_command
  unfold State.writeOther
  cases hclass : t.classify a.addr with
  | other =>
    have stores := plain (by simp [hclass]) (by simp [hclass])
    cases q with
    | p => exact stores a.data
    | f =>
      cases page : inGuardPage t.store.page a.addr with
      | true => exact .nothing (by simp)
      | false => simpa [page] using stores a.data
  | control off =>
    cases q with
    | p =>
      by_cases idle : off = 0x100 ∧ field a.data 0 3 = 0
      · simpa [idle] using plain (by simp [hclass]) (by simp [hclass]) 0
      · simp only [if_neg idle]
        exact .nothing (by simpa using idle)
    | f => exact .nothing rfl
  | _ => cases q <;> exact .nothing rfl

/-- A configuration word stored and staged. -/
theorem keeps_stage {t : State} {a : Word} (off : Nat) (w : Word)
    (apart : ∀ x ∈ statusOffsets, guardAddress t.store.page x ≠ a) :
    Keeps .configurationWrite t
      { t.storeWord a w with store := { t.store with staged := t.store.staged.write off w } } (some (a, w)) := by
  refine ⟨fun i => ?_, rfl, fun _ => ⟨rfl, rfl, fun _ => ⟨rfl, rfl⟩, fun other => absurd rfl other⟩⟩
  obtain ⟨⟨ordered, one, ⟨image, staged, log, waits⟩, outside, met, latch⟩, settled, current⟩ :=
    (Keeps.storeWord (c := .configurationWrite) (fun _ => apart) w).inv i
  exact ⟨⟨ordered, one, ⟨image, Memory.wf_write _ _ _ staged, log, waits⟩, outside, met, latch⟩, settled, current⟩

theorem row_configurationWrite (s : State) :
    ∃ x, Row .configurationWrite s (stateOf s (execConfigurationWrite s)) x := by
  rw [execConfigurationWrite, stateOf_next]
  refine row_grantWrite (c := .configurationWrite) (q := .p) (s := s) (takes := fun _ _ c => match c with
    | .configuration _ => true
    | _ => false) rfl (fun _ _ => rfl) fun a t => ?_
  cases hclass : t.classify a.addr with
  | configuration off =>
    exact .stores rfl (keeps_stage off a.data (not_status_of_classify fun off => by rw [hclass]; simp)) fun i =>
      guards_of_class _ _ i fun d => by rw [hclass]; simp
  | _ => exact .nothing rfl

/-! ## Control words (R27) -/

/-- A control word stored as zero, and what its block does with the data. -/
theorem granted_controlWrite {c : Instr} {a : Access} {t : State} (off : Nat) {f : Access → State → State}
    (h : ∀ v, Keeps c v (f a v) none) :
    Granted c t a (t.classify a.addr == .control off) (controlWrite off f a t) := by
  unfold controlWrite
  by_cases control : t.classify a.addr = .control off
  · simp only [control, if_true]
    have zero : Keeps c t (t.storeWord a.addr 0) (some (a.addr, 0)) :=
      .storeWord (fun _ => not_status_of_classify fun off => by rw [control]; simp) 0
    exact .stores (by simp) (zero.trans (h _) (.inr rfl)) fun _ => guards_of_code _ (by decide)
  · have left : (t.classify a.addr == .control off) = false := by simpa using control
    rw [left]
    cases hclass : t.classify a.addr with
    | control o =>
      have other : o ≠ off := fun e => control (by rw [hclass, e])
      simp only [if_neg other]
      exact .nothing rfl
    | _ => exact .nothing rfl

theorem keeps_generalControl (c : Instr) (s : State) (w : Word) : Keeps c s (s.generalControl w) none :=
  ((Keeps.due _ (.commit s)).andThen (.due _ (.restart _))).andThen (.due _ (.eopClear _))

/-- A general control word whose bit i is one. -/
theorem granted_generalWrite {c : Instr} (i : Nat) (a : Access) (t : State) :
    Granted c t a (t.classify a.addr == .control 0x100 && a.data.getLsbD i) (generalWrite i a t) := by
  unfold generalWrite flag
  cases named : a.data.getLsbD i with
  | true =>
    rw [Bool.and_true]
    exact granted_controlWrite (f := fun a t => t.generalControl a.data) 0x100 fun v =>
      keeps_generalControl c v a.data
  | false => exact .nothing (Bool.and_false _)

theorem row_commit (s : State) : ∃ x, Row .commit s (stateOf s (execCommit s)) x :=
  row_grantWrite (c := .commit) (q := .p) (s := s) (takes := fun _ a c => c == .control 0x100 && a.data.getLsbD 0) rfl (fun _ _ => rfl)
    (granted_generalWrite 0)

theorem row_restart (s : State) : ∃ x, Row .restart s (stateOf s (execRestart s)) x :=
  row_grantWrite (c := .restart) (q := .p) (s := s) (takes := fun _ a c => c == .control 0x100 && a.data.getLsbD 1) rfl (fun _ _ => rfl)
    (granted_generalWrite 1)

theorem row_eopClear (s : State) : ∃ x, Row .eopClear s (stateOf s (execEopClear s)) x :=
  row_grantWrite (c := .eopClear) (q := .p) (s := s) (takes := fun _ a c => c == .control 0x100 && a.data.getLsbD 2) rfl (fun _ _ => rfl)
    (granted_generalWrite 2)

theorem row_arm (s : State) : ∃ x, Row .arm s (stateOf s (execArm s)) x :=
  row_grantWrite (c := .arm) (q := .p) (s := s) (takes := fun _ _ c => c == .control 0x101) rfl (fun _ _ => rfl) fun a _ =>
    granted_controlWrite (f := fun a t => (t.arm a).finish t) 0x101 fun v => .event (.arm v a)

theorem row_disarm (s : State) : ∃ x, Row .disarm s (stateOf s (execDisarm s)) x :=
  row_grantWrite (c := .disarm) (q := .p) (s := s) (takes := fun _ _ c => c == .control 0x102) rfl (fun _ _ => rfl) fun a _ =>
    granted_controlWrite (f := fun a t => (t.disarm a.data).finish t) 0x102 fun v => .event (.disarm v a.data)

theorem row_release (s : State) : ∃ x, Row .release s (stateOf s (execRelease s)) x :=
  row_grantWrite (c := .release) (q := .p) (s := s) (takes := fun _ _ c => c == .control 0x103) rfl (fun _ _ => rfl) fun a _ =>
    granted_controlWrite (f := fun a t => (t.releaseSections a.data).finish t) 0x103 fun v => .event (.releaseSections v a.data)

theorem row_manualRequest (s : State) : ∃ x, Row .manualRequest s (stateOf s (execManualRequest s)) x := by
  rw [execManualRequest, stateOf_next]
  refine row_grantWrite (c := .manualRequest) (q := .p) (s := s) (takes := fun _ _ c => match c with
    | .control off => (manualSection off).isSome
    | _ => false) rfl (fun _ _ => rfl) fun a t => ?_
  cases hclass : t.classify a.addr with
  | control off =>
    dsimp only
    cases named : manualSection off with
    | some b =>
      exact .stores rfl (.stored (fun _ => not_status_of_classify fun off => by rw [hclass]; simp) (.manual _ b a) (.refl _))
        fun _ => guards_of_code _ (by decide)
    | none => exact .nothing rfl
  | _ => exact .nothing rfl

/-! ## Report words (R28, R32) -/

/-- A report word stored by a write of the processor. -/
theorem granted_storeCleared {c : Instr} {a : Access} {t u : State} {off : Nat} (hclass : t.classify a.addr = .report off)
    (inside : Inside t u) : Granted c t a true (some (u.storeCleared t off)) := by
  obtain ⟨address, report⟩ := report_of_classify hclass
  refine .stores (w := (u.markChanged t).reportImage off) rfl ?_ fun i => guards_of_class _ _ i fun d => by rw [hclass]; simp
  rw [address]
  exact .storeCleared inside report

theorem row_attentionClear (s : State) : ∃ x, Row .attentionClear s (stateOf s (execAttentionClear s)) x := by
  rw [execAttentionClear, stateOf_next]
  refine row_grantWrite (c := .attentionClear) (q := .p) (s := s) (takes := fun _ _ c => c == .report 0x202) rfl
    (fun _ _ => rfl) fun a t => ?_
  cases hclass : t.classify a.addr with
  | report off =>
    dsimp only
    by_cases attention : off = 0x202
    · subst attention
      exact granted_storeCleared hclass (.clearAttention t a.data)
    · rw [if_neg attention]
      exact .nothing (by simpa using attention)
  | _ => exact .nothing rfl

theorem row_deviceFlagClear (s : State) : ∃ x, Row .deviceFlagClear s (stateOf s (execDeviceFlagClear s)) x := by
  rw [execDeviceFlagClear, stateOf_next]
  refine row_grantWrite (c := .deviceFlagClear) (q := .p) (s := s) (takes := fun _ _ c => match c with
    | .report off => (indexAt 0x220 16 off).isSome
    | _ => false) rfl (fun _ _ => rfl) fun a t => ?_
  cases hclass : t.classify a.addr with
  | report off =>
    dsimp only
    cases device : indexAt 0x220 16 off with
    | some d => exact granted_storeCleared hclass (.clearFlags t d a.data)
    | none => exact .nothing rfl
  | _ => exact .nothing rfl

theorem row_reportWordWrite (s : State) : ∃ x, Row .reportWordWrite s (stateOf s (execReportWordWrite s)) x := by
  rw [execReportWordWrite, stateOf_next]
  refine row_grantWrite (c := .reportWordWrite) (q := .p) (s := s) (takes := fun _ _ c => match c with
    | .report off => off != 0x202 && (indexAt 0x220 16 off).isNone
    | _ => false) rfl (fun _ _ => rfl) fun a t => ?_
  cases hclass : t.classify a.addr with
  | report off =>
    dsimp only
    by_cases clearing : off = 0x202 ∨ (indexAt 0x220 16 off).isSome
    · rw [if_pos clearing]
      refine .nothing ?_
      rcases clearing with attention | device
      · simp [attention]
      · simp [Option.isNone_eq_false_iff.2 device]
    · rw [if_neg clearing]
      have taken : (off != 0x202 && (indexAt 0x220 16 off).isNone) = true := by simpa using clearing
      rw [taken]
      exact granted_storeCleared hclass (.refl t)
  | _ => exact .nothing rfl

/-! ## Grants of the Write-back Unit, and the scanner's read of a command word -/

theorem grantWriteBack_not {s : State} (other : ¬s.grantsWriteBack) (f : State → Option State) :
    s.grantWriteBack f = s := if_neg other

theorem row_reportWriteBack (s : State) : ∃ x, Row .reportWriteBack s (stateOf s (execReportWriteBack s)) x := by
  rw [execReportWriteBack, stateOf_next]
  have address : s.storesAt .reportWriteBack =
    if s.grantsWriteBack ∧ s.injections = [] then s.dirty.head?.map (guardAddress s.store.page) else none := rfl
  by_cases granted : s.grantsWriteBack
  · have only := portsOnly_writeBackGranted s
    rw [grantWriteBack_granted granted rfl]
    have injections : s.writeBackGranted.injections = s.injections := only.injections
    have dirty : s.writeBackGranted.dirty = s.dirty := by obtain ⟨p, f, l, same⟩ := only; rw [same]
    have page : s.writeBackGranted.store.page = s.store.page := by obtain ⟨p, f, l, same⟩ := only; rw [same]
    rw [injections, dirty]
    cases queue : s.injections with
    | cons e es => exact Row.silent (.refl _ s) (by rw [address, if_neg (by simp [queue])])
    | nil =>
      rw [if_pos ⟨granted, queue⟩] at address
      cases marked : s.dirty with
      | nil => exact Row.silent (.refl _ s) (by rw [address, marked]; rfl)
      | cons off offs =>
        have report : s.writeBackGranted.Inv → isReportOffset off = true := fun i =>
          i.sound.dirtyOrdered.2 off (by rw [dirty, marked]; exact List.mem_cons_self)
        refine ⟨_, Keeps.after_ports only (.storeReport (off := off) (.refl _) (fun i => i.statusCurrent) report
          (.slotWritten _ off)), by rw [address, marked, page]; rfl, fun i a w stored => ?_⟩
        cases stored
        have page_word := inGuardPage_guardAddress s.store.page off (isReport_lt (report (only.inv i)))
        refine guards_of_class _ _ i fun d class_ => ?_
        rw [page, State.classify, if_pos page_word] at class_
        unfold guardClass at class_
        split at class_
        · cases class_
        · split at class_
          · cases class_
          · split at class_ <;> cases class_
  · rw [grantWriteBack_not granted]
    exact Row.silent (.refl _ s) (by rw [address, if_neg fun both => granted both.1])

/-- An entry of the injection queue at its grant, the port freed in the event or not: where the guard passes it, its word
is stored. -/
theorem row_carryInjection {c : Instr} {s t w : State} {e : Injection} {scanner : Bool} (only : PortsOnly s t)
    (queued : e ∈ s.injections) (address : s.storesAt c = s.injectsAt e)
    (how : c = .injectionWrite ∨ c = .scannerCommandRead) (after : PortsOnly (t.carryInjection e scanner) w) :
    ∃ x, Row c s (w.finish t) x := by
  unfold State.injectsAt at address
  rcases Inside.carryInjection t e scanner with ⟨x, pass, stored⟩ | ⟨held, inside⟩
  · have pass' : s.judge (.injection e.owner) e.device (some e.code) = .pass x := (only.judge _ _ _).symm.trans pass
    have entry := only.entry e.device
    have record : t.Inv → t.hasRecord e.device = true := fun i => i.sound.oneInjectionEach.2 e (only.injections ▸ queued)
    have keeps := Keeps.stored (c := c)
      (fun i => not_status_of_classify fun off => by rw [classify_command i (record i)]; simp) stored after
    refine ⟨_, keeps.after_ports only, by rw [address, pass', entry]; rfl, fun i a x stored => only.guards ?_⟩
    cases stored
    cases code : e.code with
    | opn => exact guards_of_code _ (by rw [commandCode_commandWord]; simp)
    | cls =>
      rw [code] at pass
      exact guards_of_command (only.inv i) (classify_command (only.inv i) (record (only.inv i))) (closeSafe_of_pass pass)
        (.inr how)
  · refine Row.silent (Keeps.after_ports only (.unstored inside after)) ?_
    rw [address, if_neg]
    intro passes
    cases verdict : s.judge (.injection e.owner) e.device (some e.code) with
    | pass x => exact held x ((only.judge _ _ _).trans verdict)
    | defer => rw [verdict] at passes; cases passes
    | refuse _ => rw [verdict] at passes; cases passes

theorem row_injectionWrite (s : State) : ∃ x, Row .injectionWrite s (stateOf s (execInjectionWrite s)) x := by
  rw [execInjectionWrite, stateOf_next]
  have address : s.storesAt .injectionWrite =
    if s.grantsWriteBack then s.injections.head?.bind s.injectsAt else none := rfl
  by_cases granted : s.grantsWriteBack
  · have only := portsOnly_writeBackGranted s
    rw [if_pos granted] at address
    rw [grantWriteBack_granted granted rfl, only.injections]
    cases queue : s.injections with
    | nil => exact Row.silent (.refl _ s) (by rw [address, queue]; rfl)
    | cons e es =>
      exact row_carryInjection only (by rw [queue]; exact List.mem_cons_self) (by rw [address, queue]; rfl) (.inl rfl)
        (.refl _)
  · rw [grantWriteBack_not granted]
    exact Row.silent (.refl _ s) (by rw [address, if_neg granted])

theorem mem_of_queued {s : State} {d : DevId} {e : Injection} (h : s.queued d = some e) : e ∈ s.injections :=
  List.mem_of_find?_eq_some h

/-- The address that a scanner's read stores to, where it is granted the command word of a device. -/
theorem storesAt_scannerCommandRead {s : State} {a : Access} {d : DevId} (granted : s.grantsCommandRead a d) :
    s.storesAt .scannerCommandRead = (s.queued d).bind s.injectsAt := by
  obtain ⟨turn, held, read, hclass⟩ := granted
  have hclass' : s.classify a.addr = .command d := ((portsOnly_serveReads s).classify _).symm.trans hclass
  unfold State.storesAt
  simp only [turn, held, read, hclass', if_true]

/-- A scanner read that is granted no command word changes nothing. -/
theorem scannerCommandRead_not {s : State} (other : ∀ a d, ¬s.grantsCommandRead a d) :
    stateOf s (execScannerCommandRead s) = s ∧ s.storesAt .scannerCommandRead = none := by
  have only := portsOnly_serveReads s
  constructor
  · rw [execScannerCommandRead, stateOf_next]
    rcases grant_cases s .f (fun a t =>
      match a.dir, t.classify a.addr with
      | .read, .command d =>
        let u := t.scannerReads d
        some ((u.endRead .f (u.readImage a.addr)).finish t)
      | _, _ => none) with same | ⟨a, t, held, turn, done, _⟩
    · exact same
    · split at done
      · next d read hclass => exact absurd ⟨turn, held, read, hclass⟩ (other a d)
      · cases done
  · unfold State.storesAt
    dsimp only
    split
    · next turn =>
      split
      · next a held =>
        split
        · next d read hclass => exact absurd ⟨turn, held, read, (only.classify _).trans hclass⟩ (other a d)
        · rfl
      · rfl
    · rfl

theorem row_scannerCommandRead (s : State) :
    ∃ x, Row .scannerCommandRead s (stateOf s (execScannerCommandRead s)) x := by
  have only := portsOnly_serveReads s
  by_cases granted : ∃ a d, s.grantsCommandRead a d
  · obtain ⟨a, d, granted⟩ := granted
    have address := storesAt_scannerCommandRead granted
    obtain ⟨turn, held, read, hclass⟩ := granted
    rw [execScannerCommandRead, stateOf_next, grant_of turn held, read, hclass]
    have after : PortsOnly (s.serveReads.scannerReads d) ((s.serveReads.scannerReads d).endRead .f
      ((s.serveReads.scannerReads d).readImage a.addr)) := portsOnly_endRead _ _ _
    cases queued : s.queued d with
    | none =>
      have taken : s.serveReads.scannerReads d = s.serveReads.updDevice d fun x => { x with pending := false } := by
        unfold State.scannerReads
        rw [only.queued, queued]
      refine Row.silent (Keeps.after_ports only (.unstored ?_ after)) (by rw [address, queued]; rfl)
      rw [taken]
      exact .updDevice _ d _ (fun _ => rfl) fun _ => rfl
    | some e =>
      have carried : s.serveReads.scannerReads d = s.serveReads.carryInjection e true := by
        unfold State.scannerReads
        rw [only.queued, queued]
      rw [carried] at after
      refine row_carryInjection (scanner := true) only (mem_of_queued queued) (by rw [address, queued]; rfl) (.inr rfl) ?_
      rw [carried]
      exact after
  · obtain ⟨same, address⟩ := scannerCommandRead_not fun a d h => granted ⟨a, d, h⟩
    rw [same]
    exact Row.silent (.refl _ s) address

/-! ## Every command -/

theorem row_accessPresent (q : PortId) (a : Access) (s : State) :
    ∃ x, Row (.accessPresent q a) s (stateOf s (execAccessPresent q a s)) x := by
  rw [execAccessPresent, stateOf_next]
  refine Row.silent ?_ rfl
  split
  · exact .refl _ s
  · exact .ports (portsOnly_setPort s q _)

/-- What each command does. -/
theorem row_exec (c : Instr) (s : State) : ∃ x, Row c s (stateOf s (exec c s)) x := by
  cases c with
  | hardwareReset strap => exact Row.silent (keeps_hardwareReset s strap) rfl
  | accessPresent q a => exact row_accessPresent q a s
  | accessWithdrawn q => exact Row.silent (.ports (portsOnly_setPort s q _)) rfl
  | processorOpen => exact row_processorOpen s
  | processorClose => exact row_processorClose s
  | malformedCommandWrite => exact row_malformedCommandWrite s
  | positionWrite => exact row_positionWrite s
  | configurationWrite => exact row_configurationWrite s
  | commit => exact row_commit s
  | restart => exact row_restart s
  | eopClear => exact row_eopClear s
  | arm => exact row_arm s
  | disarm => exact row_disarm s
  | release => exact row_release s
  | manualRequest => exact row_manualRequest s
  | attentionClear => exact row_attentionClear s
  | deviceFlagClear => exact row_deviceFlagClear s
  | reportWordWrite => exact row_reportWordWrite s
  | otherWordWrite q => exact row_otherWordWrite q s
  | scannerCommandRead => exact row_scannerCommandRead s
  | positionWord => exact row_positionWord s
  | fieldWrite => exact row_fieldWrite s
  | injectionWrite => exact row_injectionWrite s
  | reportWriteBack => exact row_reportWriteBack s
  | healthLevelFall n => exact Row.silent (happens_healthLevelFall s n).keeps rfl
  | healthLevelRise n => exact Row.silent (happens_healthLevelRise s n).keeps rfl
  | lockLevelRise b => exact Row.silent (happens_lockLevelRise s b).keeps rfl
  | lockLevelFall b => exact Row.silent (happens_lockLevelFall s b).keeps rfl
  | eopFilteredChange => exact Row.silent (happens_eopFilteredChange s).keeps rfl
  | eopFilterSeed => exact Row.silent (happens_eopFilterSeed s).keeps rfl
  | syncLevelChange => exact Row.silent (happens_syncLevelChange s).keeps rfl
  | syncGrant => exact Row.silent (happens_syncGrant s).keeps rfl
  | rideThroughExpiry n => exact Row.silent (happens_rideThroughExpiry s n).keeps rfl
  | stabilityExpiry n => exact Row.silent (happens_stabilityExpiry s n).keeps rfl
  | coolDownExpiry n => exact Row.silent (happens_coolDownExpiry s n).keeps rfl
  | operateDeadlineExpiry d => exact Row.silent (happens_operateDeadlineExpiry s d).keeps rfl
  | startLimitExpiry k => exact Row.silent (happens_startLimitExpiry s k).keeps rfl
  | deadBusExpiry k => exact Row.silent (happens_deadBusExpiry s k).keeps rfl
  | restoreStaggerExpiry k => exact Row.silent (happens_restoreStaggerExpiry s k).keeps rfl
  | settleExpiry => exact Row.silent (happens_settleExpiry s).keeps rfl
  | syncWindowExpiry => exact Row.silent (happens_syncWindowExpiry s).keeps rfl
  | overlapExpiry k => exact Row.silent (happens_overlapExpiry s k).keeps rfl
  | millisecondTick sh lk eop sync =>
    rw [exec_millisecondTick, stateOf_next]
    exact Row.silent (keeps_millisecondTick sh lk eop sync s) rfl

theorem row_of_exec {c : Instr} {s u : State} (run : exec c s = .next u) : ∃ x, Row c s u x := by
  have row := row_exec c s
  rwa [run] at row

/-- Settles O7: a step on an empty queue changes the ports alone, and a command's row keeps the invariant. -/
theorem stepKeepsTheInvariant : Obligations.StepKeepsTheInvariant := by
  intro s u i run
  unfold step at run
  split at run
  · cases run
    exact (portsOnly_serveRead s).inv i
  · next c rest _ =>
    obtain ⟨_, row⟩ := row_of_exec run
    exact row.keeps.inv ⟨⟨i.sound.dirtyOrdered, i.sound.oneInjectionEach, i.sound.canonical, i.sound.addressesOutside,
      i.sound.demandsMet, i.sound.latchHolds⟩, i.settled, i.statusCurrent⟩

/-- The word at an address after a row: the one stored there, or what it was. -/
theorem Row.readImage {c : Instr} {s u : State} {x : Option (Word × Word)} (row : Row c s u x)
    (wf : s.image.wf = true) (b : Word) :
    (∃ w, x = some (b, w) ∧ u.readImage b = w) ∨ (s.storesAt c ≠ some b ∧ u.readImage b = s.readImage b) := by
  have image := row.keeps.image
  rw [row.address]
  unfold State.readImage
  rw [image]
  cases x with
  | none => exact .inr ⟨by simp, rfl⟩
  | some aw =>
    obtain ⟨a, w⟩ := aw
    show _ ∨ (_ ∧ (s.image.write a.toNat w).read b.toNat = _)
    by_cases own : b = a
    · subst own
      refine .inl ⟨w, rfl, ?_⟩
      show (s.image.write b.toNat w).read b.toNat = w
      rw [Memory.read_write _ _ _ _ wf, if_pos rfl]
    · refine .inr ⟨by simpa using Ne.symm own, ?_⟩
      rw [Memory.read_write _ _ _ _ wf, if_neg fun same => own (BitVec.eq_of_toNat_eq same)]

/-- Settles O9: a row stores at the address that `storesAt` gives, or nowhere. -/
theorem memoryUnchangedElsewhere : Obligations.MemoryUnchangedElsewhere := by
  intro c s u i run b elsewhere
  obtain ⟨x, row⟩ := row_of_exec run
  rcases row.readImage i.sound.canonical.1 b with ⟨w, stored, _⟩ | ⟨_, same⟩
  · exact absurd (by rw [row.address, stored]; rfl) elsewhere
  · exact same

/-- Settles O10: what a row keeps of the strap, the clock and the staged copy. -/
theorem strapClockAndStagedCopyKept : Obligations.StrapClockAndStagedCopyKept := by
  intro c s u noReset run
  obtain ⟨_, row⟩ := row_of_exec run
  obtain ⟨page, pending, clock, staged⟩ := row.keeps.unmoved noReset
  exact ⟨page, pending, clock, staged⟩

/-- Settles O11: a CLOSE that stands in a command word after a command that stores there is the one the guard has
passed. -/
theorem noUnsafeCloseReachesMemory : Obligations.NoUnsafeCloseReachesMemory := by
  intro c s u d i run record reaches close
  obtain ⟨x, row⟩ := row_of_exec run
  rcases row.readImage i.sound.canonical.1 (s.entry d).command with ⟨w, stored, read⟩ | ⟨elsewhere, same⟩
  · rw [read] at close
    obtain ⟨as, ⟨latch, unlocked, apart⟩, how⟩ := row.guarded i _ w stored d record rfl close
    refine ⟨latch, unlocked, apart.imp id fun exempt => ?_⟩
    obtain ⟨k, rfl⟩ := exempt_owner exempt
    exact ⟨how.resolve_left (by simp), k, exempt⟩
  · exact absurd same (reaches.resolve_left elsewhere)

end Sys2Proof.Machine
end

section
/-! PROOFS. Commands that reach memory for a device that no context owns, the processor's and the injections (R39 to R42,
R52, R53, R63, R69 to R72). First what each operation leaves, written as one record; then the rows. -/

namespace Sys2Proof.Machine

/-! ## What the operations leave -/

/-- The end of an event that has freed no context and left none in DEAD_WAIT marks words, and nothing else. -/
theorem finish_shape {u : State} (t : State) (steady : u.steady) :
    ∃ D, (∀ off ∈ u.dirty, off ∈ D) ∧ u.finish t = { u with dirty := D } := by
  refine ⟨_, fun off mem => ?_, (finish_steady u t steady).trans (markChanged_eq u t)⟩
  exact mem_markChanged u t off mem

theorem dropInjections_shape (s : State) (p : Injection → Bool) :
    ∃ D, (∀ off ∈ s.dirty, off ∈ D) ∧
      s.dropInjections p = { s with injections := s.injections.filter fun e => !p e, dirty := D } := by
  unfold State.dropInjections
  rw [markAll_markList]
  exact ⟨_, fun off mem => (mem_markList _ _ _).2 (.inl mem), rfl⟩

/-- The recorder once a command has reached memory: a frame is raised where another was still pending (R41). -/
def State.recordedReach (s : State) (d : DevId) : Recorder :=
  if (s.device d).pending = true then s.recorded (s.deviceIncident .commandOverrun d) else s.recorder

/-- The words that a command reaching memory marks: those of the frame, where one is raised. -/
def State.reachMarks (s : State) (d : DevId) : List Nat := if (s.device d).pending = true then s.frameMarks else []

/-- A command that reaches memory changes the record of its device, and raises a frame where another was pending. -/
theorem commandReaches_shape (s : State) (d : DevId) (code : Cmd) (tag : BitVec 4) (pending : Bool)
    (unmarked : (s.device d).pending = true → s.slotUnmarked) :
    ∃ D, (∀ off ∈ s.dirty ++ s.reachMarks d, off ∈ D) ∧ s.commandReaches d code tag pending =
      { s with
        devices := s.devices.set d (s.commanded d code tag pending), recorder := s.recordedReach d, dirty := D } := by
  unfold State.commandReaches State.recordedReach State.reachMarks State.commanded
  dsimp only
  split
  · next overrun =>
    have same : (s.updDevice d fun x => { x with overrun := true }).slotUnmarked := (unmarked overrun).of rfl
    rw [raise_recorded _ _ same]
    refine ⟨_, fun off mem => (mem_markList _ _ _).2 (List.mem_append.1 mem), ?_⟩
    unfold State.updDevice State.setDevice State.device
    simp only [Sixteen.get_set_same, Sixteen.set_set]
    rw [show (s.devices.get d).pending = true from overrun, Bool.or_true]
    rfl
  · next idle =>
    refine ⟨s.dirty, fun off mem => by simpa using mem, ?_⟩
    rw [Bool.eq_false_iff.2 idle, Bool.or_false]
    rfl

/-! ## The rows at their grant -/

theorem exec_processorOpen_granted {s t : State} {a : Access} {d : DevId} (granted : s.grantsWrite .p a)
    (ht : s.granted .p = t) (hclass : t.classify a.addr = .command d) (code : commandCode a.data = some .opn) :
    exec .processorOpen s = .next ((t.processorOpens d a).finish t) := by
  show execProcessorOpen s = _
  unfold execProcessorOpen
  rw [grantWrite_granted granted ht, commandWrite_of hclass code, Option.getD_some]

theorem exec_processorClose_granted {s t : State} {a : Access} {d : DevId} (granted : s.grantsWrite .p a)
    (ht : s.granted .p = t) (hclass : t.classify a.addr = .command d) (code : commandCode a.data = some .cls) :
    exec .processorClose s = .next ((t.processorCloses d a).finish t) := by
  show execProcessorClose s = _
  unfold execProcessorClose
  rw [grantWrite_granted granted ht, commandWrite_of hclass code, Option.getD_some]

theorem exec_injectionWrite_granted {s t : State} {e : Injection} {es : List Injection} (granted : s.grantsWriteBack)
    (ht : s.writeBackGranted = t) (head : t.injections = e :: es) :
    exec .injectionWrite s = .next ((t.carryInjection e false).finish t) := by
  show execInjectionWrite s = _
  unfold execInjectionWrite
  rw [grantWriteBack_granted granted ht, head]
  rfl

/-- A scanner read of a command word: the entry is judged, or the command marked taken, and the word that memory then holds
is returned. -/
theorem exec_scannerCommandRead_granted {s t : State} {a : Access} {d : DevId} (granted : s.grantsCommandRead a d)
    (ht : s.serveReads = t) :
    exec .scannerCommandRead s =
      .next (((t.scannerReads d).endRead .f ((t.scannerReads d).readImage a.addr)).finish t) := by
  obtain ⟨turn, held, read, hclass⟩ := granted
  show execScannerCommandRead s = _
  unfold execScannerCommandRead
  rw [grant_of turn held, read, hclass, ht]
  rfl

/-! ## A processor command of a device that no context owns -/

/-- A processor OPEN of such a device, before the end of the event. -/
theorem processorOpens_shape {t : State} {d : DevId} (a : Access) (free : t.ownedByNoContext d)
    (unmarked : (t.device d).pending = true → t.slotUnmarked) :
    ∃ D, (∀ off ∈ t.dirty ++ t.reachMarks d, off ∈ D) ∧ t.processorOpens d a =
      { t with
        image := t.image.write a.addr.toNat (commandWord .opn 0 (commandTag a.data)),
        devices := t.devices.set d { t.commanded d .opn (commandTag a.data) true with deferred := none },
        injections := t.injections.filter fun e => !(e.device == d), recorder := t.recordedReach d, dirty := D } := by
  unfold State.processorOpens
  dsimp only
  obtain ⟨D₁, marked₁, reached⟩ := commandReaches_shape
    (t.storeWord a.addr (commandWord .opn 0 (commandTag a.data))) d .opn (commandTag a.data) true
    fun p => (unmarked p).of rfl
  rw [reached, free, tellIfObserved_none]
  unfold State.dropInjection
  obtain ⟨D, marked, dropped⟩ := dropInjections_shape
    { t.storeWord a.addr (commandWord .opn 0 (commandTag a.data)) with
      devices := t.devices.set d (t.commanded d .opn (commandTag a.data) true), recorder := t.recordedReach d,
      dirty := D₁ } fun e => e.device == d
  refine ⟨D, fun off mem => marked off (marked₁ off mem), ?_⟩
  refine Eq.trans (tellOwner_none _ _ _ ?_) ?_
  · refine Eq.trans (congrArg (fun x => State.ownerContext x d) (congrArg (fun x => State.updDevice x d _) dropped)) ?_
    unfold State.ownerContext State.device
    simp only [State.updDevice_devices, State.device, Sixteen.get_set_same]
    exact free
  · refine Eq.trans (congrArg (fun x => State.updDevice x d _) dropped) ?_
    unfold State.updDevice State.setDevice State.device
    simp only [Sixteen.get_set_same, Sixteen.set_set]
    rfl

/-- A processor CLOSE that passes, of such a device, before the end of the event. -/
theorem processorCloses_shape {t : State} {d : DevId} {x : Bool} (a : Access)
    (pass : t.judge .processorWrite d (some .cls) = .pass x) (free : t.ownedByNoContext d)
    (unmarked : (t.device d).pending = true → t.slotUnmarked) :
    ∃ D, (∀ off ∈ t.dirty ++ t.reachMarks d, off ∈ D) ∧ t.processorCloses d a =
      { t with
        image := t.image.write a.addr.toNat (commandWord .cls 0 (commandTag a.data)),
        devices := t.devices.set d (t.commanded d .cls (commandTag a.data) true),
        recorder := t.recordedReach d, dirty := D } := by
  unfold State.processorCloses
  rw [pass]
  dsimp only
  rw [free, tellIfObserved_none]
  exact commandReaches_shape (t.storeWord a.addr (commandWord .cls 0 (commandTag a.data))) d .cls (commandTag a.data) true
    fun p => (unmarked p).of rfl

/-! ## Records and recorders of a command that reaches memory -/

theorem reachMarks_pending {s : State} {d : DevId} (pending : (s.device d).pending = true) :
    s.reachMarks d = s.frameMarks := if_pos pending

theorem recordedReach_idle {s : State} {d : DevId} (idle : (s.device d).pending = false) :
    s.recordedReach d = s.recorder := if_neg (by simp [idle])

/-- The frame of an overrun of a device that no context owns (R41). -/
theorem recordedReach_pending {s : State} {d : DevId} (free : s.ownedByNoContext d)
    (pending : (s.device d).pending = true) :
    s.recordedReach d = s.recorded
      { cls := .commandOverrun, sec := s.frameSection d, dev := some d, src := s.incomerSource d } := by
  unfold State.recordedReach State.deviceIncident
  rw [if_pos pending, free]
  rfl

theorem commanded_idle {s : State} {d : DevId} (code : Cmd) (tag : BitVec 4) (p : Bool)
    (idle : (s.device d).pending = false) : s.commanded d code tag p =
      { s.device d with tag := tag, pending := p, op := s.startOperation d code } := by
  unfold State.commanded
  rw [idle, Bool.or_false]

theorem commanded_pending {s : State} {d : DevId} (code : Cmd) (tag : BitVec 4) (p : Bool)
    (pending : (s.device d).pending = true) : s.commanded d code tag p =
      { s.device d with overrun := true, tag := tag, pending := p, op := s.startOperation d code } := by
  unfold State.commanded
  rw [pending, Bool.or_true]

/-- An event that leaves the contexts, with its end: the words it has marked stay marked, and others may be. -/
theorem next_finish {t u : State} {marks : List Nat} (steady : t.steady) (kept : ∀ off ∈ marks, off ∈ u.dirty)
    (contexts : u.contexts = t.contexts) (freed : u.freed = t.freed) :
    ∃ D, (∀ off ∈ marks, off ∈ D) ∧
      (Host.Outcome.next (u.finish t) : Host.Outcome State Fault Refusal) = .next { u with dirty := D } := by
  obtain ⟨D, marked, ended⟩ := finish_shape t (u := u) (steady.of contexts freed)
  exact ⟨D, fun off mem => marked off (kept off mem), congrArg _ ended⟩

/-- A device that no context owns leaves a processor's CLOSE to the later checks. -/
theorem closeOpen_of_free {s : State} {d : DevId} (as : JudgedAs) (free : s.ownedByNoContext d) : s.closeOpen as d := by
  cases own : (s.device d).owner with
  | context k => exact absurd own (ownerContext_eq_none.1 free k)
  | processor => exact .inl own
  | emergency => exact .inr (.inl own)

theorem not_pending {s : State} {d : DevId} {p : Prop} (idle : (s.device d).pending = false)
    (pending : (s.device d).pending = true) : p := by
  rw [idle] at pending
  cases pending

/-- Settles O15: with no command pending the commands of the processor leave their record and their word. -/
theorem processorCommandIsTaken : Obligations.ProcessorCommandIsTaken := by
  constructor
  · intro s t a d granted ht hclass code free idle steady
    obtain ⟨D, marked, opens⟩ := processorOpens_shape a free (not_pending idle)
    rw [recordedReach_idle idle, commanded_idle _ _ _ idle] at opens
    rw [exec_processorOpen_granted granted ht hclass code, opens]
    exact next_finish steady (fun off mem => marked off (List.mem_append_left _ mem)) rfl rfl
  · intro s t a d granted ht hclass code free latch unlocked apart idle steady
    have pass : t.judge .processorWrite d (some .cls) = .pass false := by
      rw [judge_close_of_open (closeOpen_of_free _ free), judgeClose_not_held _ latch, if_neg (by simp [unlocked]),
        if_neg (by simp [apart])]
    obtain ⟨D, marked, closes⟩ := processorCloses_shape a pass free (not_pending idle)
    rw [recordedReach_idle idle, commanded_idle _ _ _ idle] at closes
    rw [exec_processorClose_granted granted ht hclass code, closes]
    exact next_finish steady (fun off mem => marked off (List.mem_append_left _ mem)) rfl rfl

/-! ## Injections (R32, R33, R72) -/

theorem handOutcome_free {s : State} {e : Injection} (f : CtxId → State → State) (free : s.ownedByNoContext e.device) :
    s.handOutcome e f = s := by
  unfold State.handOutcome
  split
  · next k _ =>
    rw [if_neg]
    intro both
    exact ownerContext_eq_none.1 free k (owns_owner (Bool.and_eq_true_iff.1 both).2)
  · rfl

/-- An injection that the guard passes without an exemption, of a device that no context owns. -/
theorem carryInjection_pass_shape {t : State} {e : Injection} (scanner : Bool)
    (pass : t.judge (.injection e.owner) e.device (some e.code) = .pass false) (free : t.ownedByNoContext e.device)
    (unmarked : (t.device e.device).pending = true → t.slotUnmarked) :
    ∃ D, (∀ off ∈ t.dirty ++ t.reachMarks e.device, off ∈ D) ∧ t.carryInjection e scanner =
      { t with
        image := t.image.write (t.entry e.device).command.toNat (commandWord e.code 1 e.tag),
        injections := t.injections.filter fun x => !(x.device == e.device),
        devices := t.devices.set e.device (t.commanded e.device e.code e.tag (!scanner)),
        recorder := t.recordedReach e.device, dirty := D } := by
  obtain ⟨D₁, marked₁, dropped⟩ := dropInjections_shape t fun x => x.device == e.device
  obtain ⟨D, marked, reached⟩ := commandReaches_shape
    ((t.dropInjection e.device).storeWord (t.entry e.device).command (commandWord e.code 1 e.tag)) e.device e.code e.tag
    (!scanner) fun p => by
      unfold State.dropInjection at p ⊢
      rw [dropped] at p ⊢
      exact (unmarked p).of rfl
  refine ⟨D, fun off mem => marked off ?_, ?_⟩
  · unfold State.dropInjection
    rw [dropped]
    exact (List.mem_append.1 mem).elim (fun m => List.mem_append_left _ (marked₁ off m)) (List.mem_append_right _)
  · unfold State.carryInjection
    simp only [pass, Bool.false_eq_true, if_false]
    rw [free, tellIfObserved_none, reached, handOutcome_free]
    · unfold State.dropInjection
      rw [dropped]
      rfl
    · unfold State.dropInjection
      rw [dropped]
      show State.ownerContext { t with devices := t.devices.set e.device _ } e.device = none
      unfold State.ownerContext State.device
      simp only [Sixteen.get_set_same]
      exact free

/-- An injection that the guard refuses, of a device that no context owns. -/
theorem carryInjection_refuse_shape {t : State} {e : Injection} {r : Detail}
    (refuse : t.judge (.injection e.owner) e.device (some e.code) = .refuse r) (free : t.ownedByNoContext e.device)
    (unmarked : t.slotUnmarked) :
    ∃ D, (∀ off ∈ t.dirty ++ t.frameMarks, off ∈ D) ∧ t.carryInjection e false =
      { t with
        injections := t.injections.filter fun x => !(x.device == e.device),
        recorder := t.recorded (t.refusedInjection e r), dirty := D } := by
  obtain ⟨D, marked, dropped⟩ := dropInjections_shape t fun x => x.device == e.device
  unfold State.carryInjection State.dropInjection
  simp only [refuse, Bool.false_eq_true, if_false]
  rw [dropped, raise_recorded, handOutcome_free]
  · refine ⟨_, fun off mem => (mem_markList _ _ _).2 ?_, rfl⟩
    exact (List.mem_append.1 mem).imp (marked off) id
  · exact free
  · exact unmarked.of rfl

/-- The address of a command word names its device (R22). -/
theorem command_of_classify {s : State} {a : Word} {d : DevId} (hclass : s.classify a = .command d) :
    (s.entry d).command = a := by
  unfold State.classify guardClass at hclass
  split at hclass
  · split at hclass
    · cases hclass
    · split at hclass
      · cases hclass
      · split at hclass <;> cases hclass
  · split at hclass
    · next e found =>
      cases hclass
      have same := List.find?_some found
      exact eq_of_beq (Bool.and_eq_true_iff.1 same).2
    · split at hclass <;> cases hclass

theorem scannerReads_queued {s : State} {d : DevId} {e : Injection} (queued : s.queued d = some e) :
    s.scannerReads d = s.carryInjection e true := by
  unfold State.scannerReads
  rw [queued]

theorem scannerReads_none {s : State} {d : DevId} (queued : s.queued d = none) :
    s.scannerReads d = s.updDevice d fun x => { x with pending := false } := by
  unfold State.scannerReads
  rw [queued]

/-- Settles O16: the overrun flag and the frame are what a pending command adds. -/
theorem overrunIsFramed : Obligations.OverrunIsFramed := by
  refine ⟨fun s t a d c granted ht hclass code pass free pending steady unmarked => ?_,
    fun s t e es granted ht head pass free pending steady unmarked => ?_,
    fun s t a d e granted ht queued pass free pending wf steady unmarked => ?_⟩
  · cases c with
    | opn =>
      obtain ⟨D, marked, opens⟩ := processorOpens_shape a free fun _ => unmarked
      rw [recordedReach_pending free pending, commanded_pending _ _ _ pending, reachMarks_pending pending] at *
      rw [exec_processorOpen_granted granted ht hclass code, opens]
      exact next_finish steady marked rfl rfl
    | cls =>
      obtain ⟨D, marked, closes⟩ := processorCloses_shape a pass free fun _ => unmarked
      rw [recordedReach_pending free pending, commanded_pending _ _ _ pending] at closes
      rw [reachMarks_pending pending] at marked
      rw [exec_processorClose_granted granted ht hclass code, closes]
      exact next_finish steady marked rfl rfl
  · obtain ⟨D, marked, carried⟩ := carryInjection_pass_shape false pass free fun _ => unmarked
    rw [recordedReach_pending free pending, commanded_pending _ _ _ pending] at carried
    rw [reachMarks_pending pending] at marked
    rw [exec_injectionWrite_granted granted ht head, carried]
    exact next_finish steady marked rfl rfl
  · have device := device_of_queued queued
    subst device
    obtain ⟨D, marked, carried⟩ := carryInjection_pass_shape true pass free fun _ => unmarked
    rw [recordedReach_pending free pending, commanded_pending _ _ _ pending] at carried
    rw [reachMarks_pending pending] at marked
    have address := command_of_classify (show t.classify a.addr = _ from ht ▸ granted.2.2.2)
    have read : (t.scannerReads e.device).readImage a.addr = commandWord e.code 1 e.tag := by
      rw [scannerReads_queued queued, carried, ← address]
      exact (Memory.read_write _ _ _ _ wf).trans (if_pos rfl)
    rw [exec_scannerCommandRead_granted granted ht, read, scannerReads_queued queued, carried]
    exact next_finish steady marked rfl rfl

/-! ## A CLOSE held back (R53, R63, R70, R71) -/

theorem ownerContext_of_owner {s : State} {d : DevId} {k : CtxId} (owner : (s.device d).owner = .context k) :
    s.ownerContext d = some k := by
  unfold State.ownerContext
  rw [owner]

theorem not_context_of_refused {s : State} {d : DevId} {r : Detail}
    (refuse : s.judge .processorWrite d (some .cls) = .refuse r) : s.ownedByNoContext d :=
  ownerContext_eq_none.2 fun k owner => by
    rw [judge_close_defer owner] at refuse
    cases refuse

/-- Settles O17: the word waits in the slot of the device, or only its frame is left of it. -/
theorem processorCloseIsHeldBack : Obligations.ProcessorCloseIsHeldBack := by
  constructor
  · intro s t a d k granted ht hclass code owner steady unmarked
    have closes : t.processorCloses d a =
        { t with
          devices := t.devices.set d { t.device d with deferred := some a.data },
          recorder := t.recorded (t.refusedWrite d .deferred a.addr a.data),
          dirty := markList t.frameMarks t.dirty } := by
      unfold State.processorCloses
      rw [judge_close_defer owner]
      dsimp only
      rw [raise_recorded]
      · rfl
      · exact unmarked.of rfl
    have frame : t.refusedWrite d .deferred a.addr a.data =
        { cls := .writeRefused, detail := some .deferred, sec := t.frameSection d, dev := some d,
          src := t.incomerSource d, ctx := some k, cause := (t.context k).cause, w5 := a.addr, w6 := a.data, w7 := 0 } := by
      unfold State.refusedWrite State.deviceIncident
      rw [ownerContext_of_owner owner]
      rfl
    rw [exec_processorClose_granted granted ht hclass code, closes, frame]
    exact next_finish steady (fun off mem => (mem_markList _ _ _).2 (List.mem_append.1 mem)) rfl rfl
  · intro s t a d r granted ht hclass code refuse steady unmarked
    have closes : t.processorCloses d a = t.raise (t.refusedWrite d r a.addr a.data) := by
      unfold State.processorCloses
      rw [refuse]
    have frame : t.refusedWrite d r a.addr a.data =
        { cls := .writeRefused, detail := some r, sec := t.frameSection d, dev := some d, src := t.incomerSource d,
          w5 := a.addr, w6 := a.data, w7 := 0 } := by
      unfold State.refusedWrite State.deviceIncident
      rw [not_context_of_refused refuse]
      rfl
    rw [exec_processorClose_granted granted ht hclass code, closes, raise_recorded t _ unmarked, frame]
    exact next_finish steady (fun off mem => (mem_markList _ _ _).2 (List.mem_append.1 mem)) rfl rfl

/-! ## Reads of command words and injections at their grant -/

theorem exec_injectionWrite_image {s : State} {e : Injection} {es : List Injection} (granted : s.grantsWriteBack)
    (head : s.injections = e :: es) :
    ∃ u, exec .injectionWrite s = .next u ∧ u.image = (s.writeBackGranted.carryInjection e false).image := by
  have only := portsOnly_writeBackGranted s
  exact ⟨_, exec_injectionWrite_granted granted rfl (only.injections.trans head), (Inside.finish _ _).image⟩

/-- Memory after an injection at its grant, where the guard passes it. -/
theorem carryInjection_image_pass {s : State} {e : Injection} {x : Bool} (scanner : Bool)
    (pass : s.judge (.injection e.owner) e.device (some e.code) = .pass x) :
    (s.carryInjection e scanner).image = s.image.write (s.entry e.device).command.toNat (commandWord e.code 1 e.tag) := by
  rcases Inside.carryInjection s e scanner with ⟨_, _, stored⟩ | ⟨held, _⟩
  · exact stored.image
  · exact absurd pass (held x)

theorem carryInjection_image_refuse {s : State} {e : Injection} {r : Detail} (scanner : Bool)
    (refuse : s.judge (.injection e.owner) e.device (some e.code) = .refuse r) :
    (s.carryInjection e scanner).image = s.image := by
  rcases Inside.carryInjection s e scanner with ⟨_, pass, _⟩ | ⟨_, inside⟩
  · rw [refuse] at pass
    cases pass
  · exact inside.image

/-- A scanner read with an injection queued: the port takes the word that memory then holds. -/
theorem exec_scannerCommandRead_queued {s : State} {a : Access} {d : DevId} {e : Injection}
    (granted : s.grantsCommandRead a d) (queued : s.queued d = some e) :
    ∃ u, exec .scannerCommandRead s = .next u ∧ u.fPort.access = none ∧
      u.fPort.data = (s.serveReads.carryInjection e true).readImage a.addr ∧
      u.image = (s.serveReads.carryInjection e true).image := by
  have only := portsOnly_serveReads s
  have queued' : s.serveReads.queued d = some e := (only.queued d).trans queued
  have run := exec_scannerCommandRead_granted granted rfl
  rw [scannerReads_queued queued'] at run
  have end_ := Inside.finish
    ((s.serveReads.carryInjection e true).endRead .f ((s.serveReads.carryInjection e true).readImage a.addr)) s.serveReads
  exact ⟨_, run, by rw [end_.fPort]; rfl, by rw [end_.fPort]; rfl, end_.image.trans rfl⟩

/-- Settles O38: what a scanner's read of a command word returns, and what an injection stores. -/
theorem commandReadsAndInjections : Obligations.CommandReadsAndInjections := by
  refine ⟨fun s t a d granted ht queued steady => ?_, fun s e es x granted head pass => ?_,
    fun s e es r granted head refuse => ?_, fun s a d e x granted queued wf pass => ?_,
    fun s a d e r granted queued refuse => ?_⟩
  · rw [exec_scannerCommandRead_granted granted ht, scannerReads_none queued]
    exact next_finish steady (fun off mem => mem) rfl rfl
  · have only := portsOnly_writeBackGranted s
    obtain ⟨u, run, image⟩ := exec_injectionWrite_image granted head
    refine ⟨u, run, ?_⟩
    rw [image, carryInjection_image_pass _ ((only.judge _ _ _).trans pass), only.image, only.entry]
  · have only := portsOnly_writeBackGranted s
    obtain ⟨u, run, image⟩ := exec_injectionWrite_image granted head
    refine ⟨u, run, ?_⟩
    rw [image, carryInjection_image_refuse _ ((only.judge _ _ _).trans refuse), only.image]
  · have only := portsOnly_serveReads s
    obtain ⟨u, run, free, data, image⟩ := exec_scannerCommandRead_queued granted queued
    have device := device_of_queued queued
    subst device
    have stored := carryInjection_image_pass true ((only.judge _ _ _).trans pass)
    rw [only.image, only.entry] at stored
    refine ⟨u, run, free, ?_, image.trans stored⟩
    rw [data, State.readImage, stored, ← command_of_classify granted.2.2.2, only.entry,
      Memory.read_write _ _ _ _ wf, if_pos rfl]
  · have only := portsOnly_serveReads s
    obtain ⟨u, run, free, data, image⟩ := exec_scannerCommandRead_queued granted queued
    have device := device_of_queued queued
    subst device
    have stays := carryInjection_image_refuse true ((only.judge _ _ _).trans refuse)
    rw [only.image] at stays
    exact ⟨u, run, free, by rw [data, State.readImage, stays, State.readImage], image.trans stays⟩

/-- Settles O39: what an injection for a device that no context owns leaves. -/
theorem injectionIsTaken : Obligations.InjectionIsTaken := by
  refine ⟨fun s t e es granted ht head pass free idle steady => ?_,
    fun s t e es r granted ht head refuse free steady unmarked => ?_⟩
  · obtain ⟨D, marked, carried⟩ := carryInjection_pass_shape false pass free (not_pending idle)
    rw [recordedReach_idle idle, commanded_idle _ _ _ idle] at carried
    rw [exec_injectionWrite_granted granted ht head, carried]
    exact next_finish steady (fun off mem => marked off (List.mem_append_left _ mem)) rfl rfl
  · obtain ⟨D, marked, carried⟩ := carryInjection_refuse_shape refuse free unmarked
    have frame : t.refusedInjection e r =
        { cls := .writeRefused, detail := some .injectionRefused, sec := t.frameSection e.device, dev := some e.device,
          src := t.incomerSource e.device,
          ctx := match e.owner with | .context k => some k | .emergency => none,
          cause := match e.owner with
            | .context k => if t.active k = true then (t.context k).cause else none
            | .emergency => none,
          w5 := (t.entry e.device).command, w6 := commandWord e.code 1 e.tag,
          w7 := BitVec.ofNat 16 (2 + 16 * r.code) } := by
      unfold State.refusedInjection
      cases e.owner <;> rfl
    rw [exec_injectionWrite_granted granted ht head, carried, frame]
    exact next_finish steady marked rfl rfl

end Sys2Proof.Machine
end

section
/-! PROOFS. Writes refused outright (R26) and writes to report words (R28, R32, R34, R55, R172). -/

namespace Sys2Proof.Machine

/-! ## Writes refused outright (R26) -/

theorem guardClass_ne_command (off : Nat) (d : DevId) : guardClass off ≠ .command d := by
  unfold guardClass
  split
  · simp
  · split
    · simp
    · split <;> simp

/-- No command word lies in the guard page (R22). -/
theorem outside_of_command {s : State} {a : Word} {d : DevId} (hclass : s.classify a = .command d) :
    inGuardPage s.store.page a = false := by
  rcases classify_guard hclass with ⟨_, command⟩ | ⟨outside, _⟩
  · exact absurd command.symm (guardClass_ne_command _ _)
  · exact outside

theorem exec_positionWrite_granted {s t : State} {a : Access} {d : DevId} (granted : s.grantsWrite .p a)
    (ht : s.granted .p = t) (hclass : t.classify a.addr = .position d) :
    exec .positionWrite s = .next ((t.raise (refusedOutright .positionWrite (some d) originP a)).finish t) := by
  show execPositionWrite s = _
  unfold execPositionWrite
  rw [grantWrite_granted granted ht, hclass]
  rfl

theorem exec_fieldWrite_granted {s t : State} {a : Access} {d : Option DevId} (granted : s.grantsWrite .f a)
    (ht : s.granted .f = t) (refused : t.fieldRefused a = some d) :
    exec .fieldWrite s = .next ((t.raise (refusedOutright .fieldWrite d originF a)).finish t) := by
  show execFieldWrite s = _
  unfold execFieldWrite
  rw [grantWrite_granted granted ht, refused]
  rfl

theorem fieldRefused_command {t : State} {a : Access} {d : DevId} (hclass : t.classify a.addr = .command d) :
    t.fieldRefused a = some (some d) := by
  unfold State.fieldRefused
  rw [if_neg (by simp [outside_of_command hclass]), hclass]

theorem fieldRefused_page {t : State} {a : Access} (page : inGuardPage t.store.page a.addr = true) :
    t.fieldRefused a = some none := if_pos page

/-- An event that raises a frame and does nothing else, as a command answers it. -/
theorem next_raise {t : State} (i : Incident) (steady : t.steady) (unmarked : t.slotUnmarked) :
    ∃ D, (∀ off ∈ t.dirty ++ t.frameMarks, off ∈ D) ∧
      (Host.Outcome.next ((t.raise i).finish t) : Host.Outcome State Fault Refusal) =
        .next { t with recorder := t.recorded i, dirty := D } := by
  obtain ⟨D, marked, raised⟩ := raise_finish_steady i steady unmarked
  exact ⟨D, marked, congrArg _ raised⟩

/-- Settles O19: a write refused outright leaves its frame and nothing else. -/
theorem writesRefusedOutright : Obligations.WritesRefusedOutright := by
  refine ⟨fun s t a d granted ht hclass steady unmarked => ?_, fun s t a d granted ht hclass steady unmarked => ?_,
    fun s t a granted ht page steady unmarked => ?_⟩
  · rw [exec_positionWrite_granted granted ht hclass]
    exact next_raise (refusedOutright .positionWrite (some d) originP a) steady unmarked
  · rw [exec_fieldWrite_granted granted ht (fieldRefused_command hclass)]
    exact next_raise (refusedOutright .fieldWrite (some d) originF a) steady unmarked
  · rw [exec_fieldWrite_granted granted ht (fieldRefused_page page)]
    exact next_raise (refusedOutright .fieldWrite none originF a) steady unmarked

/-! ## Report words (R28, R32, R34) -/

/-- A store changes no image, so the event that it is marks nothing. -/
theorem storeReport_finish {t : State} (off : Nat) (steady : t.steady) :
    (t.storeReport off).finish t = t.storeReport off := by
  have stored : (t.storeReport off).steady := steady.of rfl rfl
  rw [finish_steady _ _ stored]
  exact markChanged_self (t.storeReport off)

theorem slotWritten_storeReport {t : State} {off : Nat}
    (other : off < 0x400 ∨ t.waitingOn (slotAt off) = none ∨ ∃ x ∈ slotOffsets (slotAt off), x ≠ off ∧ x ∈ t.dirty) :
    (t.storeReport off).slotWritten off = t.storeReport off := by
  refine slotWritten_same _ _ (other.imp id (Or.imp id fun ⟨x, slot, ne, mem⟩ => ⟨x, slot, ?_⟩))
  exact List.mem_filter.2 ⟨mem, by simpa using ne⟩

theorem indexAt_device_none {off : Nat} (other : ¬(0x220 ≤ off ∧ off < 0x230)) : indexAt 0x220 16 off = none := by
  unfold indexAt
  rw [dif_neg]
  omega

theorem exec_reportWordWrite_granted {s t : State} {a : Access} {off : Nat} (granted : s.grantsWrite .p a)
    (ht : s.granted .p = t) (hclass : t.classify a.addr = .report off) (attention : off ≠ 0x202)
    (device : ¬(0x220 ≤ off ∧ off < 0x230)) :
    exec .reportWordWrite s = .next (((t.storeReport off).slotWritten off).finish t) := by
  have other : ¬(off = 0x202 ∨ (indexAt 0x220 16 off).isSome = true) := by
    rw [indexAt_device_none device]
    simpa using attention
  show execReportWordWrite s = _
  unfold execReportWordWrite
  rw [grantWrite_granted granted ht, hclass]
  dsimp only
  rw [if_neg other, Option.getD_some, State.storeCleared, markChanged_self]

theorem exec_reportWriteBack_granted {s t : State} {off : Nat} {offs : List Nat} (granted : s.grantsWriteBack)
    (ht : s.writeBackGranted = t) (idle : t.injections = []) (marked : t.dirty = off :: offs) :
    exec .reportWriteBack s = .next (((t.storeReport off).slotWritten off).finish t) := by
  show execReportWriteBack s = _
  unfold execReportWriteBack
  rw [grantWriteBack_granted granted ht, idle, marked]
  rfl

/-- Settles O21: the image as it stands is stored, and its word is clean. -/
theorem reportWordsAreStored : Obligations.ReportWordsAreStored := by
  refine ⟨fun s t a off granted ht hclass attention device steady other => ?_,
    fun s t off offs granted ht idle marked steady other => ?_⟩
  · rw [exec_reportWordWrite_granted granted ht hclass attention device, slotWritten_storeReport other,
      storeReport_finish off steady, (report_of_classify hclass).1]
    rfl
  · rw [exec_reportWriteBack_granted granted ht idle marked, slotWritten_storeReport other,
      storeReport_finish off steady]
    rfl

/-! ## Clearings (R28, R55, R172) -/

theorem exec_attentionClear_granted {s t : State} {a : Access} (granted : s.grantsWrite .p a)
    (ht : s.granted .p = t) (hclass : t.classify a.addr = .report 0x202) :
    exec .attentionClear s = .next ((t.clearAttention a.data).storeCleared t 0x202) := by
  show execAttentionClear s = _
  unfold execAttentionClear
  rw [grantWrite_granted granted ht, hclass]
  rfl

theorem indexAt_add {base n : Nat} (i : Fin n) : indexAt base n (base + i.val) = some i := by
  unfold indexAt
  rw [dif_pos ⟨by omega, by omega⟩]
  congr
  omega

theorem exec_deviceFlagClear_granted {s t : State} {a : Access} {d : DevId} (granted : s.grantsWrite .p a)
    (ht : s.granted .p = t) (hclass : t.classify a.addr = .report (0x220 + d.val)) :
    exec .deviceFlagClear s = .next ((t.clearFlags d a.data).storeCleared t (0x220 + d.val)) := by
  show execDeviceFlagClear s = _
  unfold execDeviceFlagClear
  rw [grantWrite_granted granted ht, hclass]
  dsimp only
  rw [indexAt_add d]
  rfl

/-- The image of a device status word. -/
theorem reportImage_device (s : State) (d : DevId) : s.reportImage (0x220 + d.val) = s.deviceWord d := by
  unfold State.reportImage
  rw [if_neg (by omega), if_neg (by omega), if_pos (by omega), indexAt_add d]

/-- A clearing's dirty set: what it marks is kept, but for the word stored. -/
theorem mem_cleared {marks dirty : List Nat} {off x : Nat} (mem : x ∈ dirty) (ne : x ≠ off) :
    x ∈ (markList marks dirty).filter (· != off) :=
  List.mem_filter.2 ⟨(mem_markList _ _ _).2 (.inl mem), by simpa using ne⟩

theorem not_mem_cleared (marks dirty : List Nat) (off : Nat) : off ∉ (markList marks dirty).filter (· != off) :=
  fun mem => by simpa using (List.mem_filter.1 mem).2

theorem atn_iff (s : State) : s.atn = true ↔ s.recorder.attention = 0 := beq_iff_eq

/-- Settles O23: the bits written as one are cleared, and the image after the clearing is stored. -/
theorem clearingWritesStoreTheImage : Obligations.ClearingWritesStoreTheImage := by
  refine ⟨fun s t a granted ht hclass steady => ?_, fun s t a d granted ht hclass steady => ?_⟩
  · refine ⟨_, not_mem_cleared (changedOffsets (t.clearAttention a.data) t) t.dirty 0x202,
      fun off mem ne => mem_cleared mem ne, _, ?_, rfl, atn_iff _⟩
    rw [exec_attentionClear_granted granted ht hclass,
      storeCleared_shape (t.clearAttention a.data) t 0x202 (by decide) steady rfl rfl, (report_of_classify hclass).1]
    rfl
  · refine ⟨_, not_mem_cleared (changedOffsets (t.clearFlags d a.data) t) t.dirty (0x220 + d.val),
      fun off mem ne => mem_cleared mem ne, (t.clearFlags d a.data).storeCleared t (0x220 + d.val),
      exec_deviceFlagClear_granted granted ht hclass, ?_⟩
    have shape := storeCleared_shape (t.clearFlags d a.data) t (0x220 + d.val) (by omega) steady rfl rfl
    have word : ((t.clearFlags d a.data).storeCleared t (0x220 + d.val)).deviceWord d =
        (t.clearFlags d a.data).deviceWord d := by rw [shape]; rfl
    rw [word, shape, (report_of_classify hclass).1, reportImage_device]
    rfl

/-! ## A marked slot (R126, R173) -/

theorem steady_blank {t u : State} (k : CtxId) (steady : t.steady) (contexts : u.contexts = t.contexts.set k Context.blank)
    (freed : u.freed = t.freed) : u.steady :=
  ⟨by rw [State.settled, freed]; exact steady.1, noDeadWait_blank k steady.2 contexts⟩

end Sys2Proof.Machine
end

section
/-! PROOFS. The Emergency Latch's level, the Sync Selector's grant and leave, and the 1 ms tick (R76, R130, R131, R135, R159,
R176). First the end of an event that changes one context, and what a queued command leaves. -/

namespace Sys2Proof.Machine

/-! ## The end of an event that changes one context -/

/-- The record of a context that no dead-bus timer watches (R117). -/
def Context.unwatched (c : Context) : Prop := ¬(c.state = .active ∧ c.phase = .deadWait)

theorem steady_setContext {t u : State} {k : CtxId} {c : Context} (steady : t.steady)
    (contexts : u.contexts = t.contexts.set k c) (freed : u.freed = t.freed) (unwatched : c.unwatched) : u.steady := by
  refine ⟨?_, fun j => ?_⟩
  · rw [State.settled, freed]
    exact steady.1
  · unfold State.context
    rw [contexts, Three.get_set]
    split
    · exact unwatched
    · exact steady.2 j

/-- An event whose end finds nothing to act on marks words, and nothing else. -/
theorem next_finish_steady {t u : State} {marks : List Nat} (steady : u.steady) (kept : ∀ off ∈ marks, off ∈ u.dirty) :
    ∃ D, (∀ off ∈ marks, off ∈ D) ∧
      (Host.Outcome.next (u.finish t) : Host.Outcome State Fault Refusal) = .next { u with dirty := D } := by
  obtain ⟨D, marked, ended⟩ := finish_shape t steady
  exact ⟨D, fun off mem => marked off (kept off mem), congrArg _ ended⟩

/-! ## A command queued (R30) -/

theorem hasRecord_of_owns {s : State} {k : CtxId} {d : DevId} (own : s.owns k d = true) : s.hasRecord d = true :=
  (Bool.and_eq_true_iff.1 own).1

theorem enqueue_shape {s : State} {d : DevId} (code : Cmd) (o : Enqueuer) (record : s.hasRecord d = true) :
    ∃ D, (∀ off ∈ s.dirty, off ∈ D) ∧ s.enqueue d code o =
      { s with injections := joinInjection (s.injectionFor d code o) s.injections, dirty := D } := by
  unfold State.enqueue
  rw [if_pos record, markDirty_markList]
  exact ⟨_, fun off mem => (mem_markList _ _ _).2 (.inl mem), rfl⟩

theorem command_shape {s : State} {k : CtxId} {d : DevId} (code : Cmd) (own : s.owns k d = true) :
    ∃ D, (∀ off ∈ s.dirty, off ∈ D) ∧ s.command k code (some d) =
      { s with injections := joinInjection (s.injectionFor d code (.context k)) s.injections, dirty := D } := by
  show ∃ D, _ ∧ (if s.owns k d then s.enqueue d code (.context k) else s) = _
  rw [if_pos own]
  exact enqueue_shape code _ (hasRecord_of_owns own)

/-! ## The filtered EOP level (R159) -/

theorem exec_eopFilteredChange_due {s : State} (change : s.latch.filter.change = true) :
    exec .eopFilteredChange s = .next (s.eopChanges.finish s) := by
  show execEopFilteredChange s = _
  unfold execEopFilteredChange
  rw [change, event_due]

theorem eopChanges_of_no_edge {s : State} (quiet : s.isEdge (!s.latch.filter.level) = false ∨ s.latch.isSet = true) :
    s.eopChanges = { s with latch := { s.latch with filter := s.latch.filter.turn } } := by
  unfold State.eopChanges
  dsimp only
  refine if_neg ?_
  rcases quiet with level | isSet
  · simp [Filter.turn, level]
  · simp [isSet]

/-- Settles O57: without an edge, or with the latch set, the level moves alone; the seeding takes the line. -/
theorem eopLevelWithoutAnEdge : Obligations.EopLevelWithoutAnEdge := by
  refine ⟨fun s x filter change quiet steady => ?_, fun s => ⟨rfl, rfl⟩, fun s due steady => ?_⟩
  · subst filter
    rw [exec_eopFilteredChange_due change, eopChanges_of_no_edge quiet]
    exact next_finish steady (fun off mem => mem) rfl rfl
  · show ∃ D, _ ∧ execEopFilterSeed s = _
    unfold execEopFilterSeed
    rw [due]
    exact next_finish steady (fun off mem => mem) rfl rfl

/-! ## The Sync Selector's grant (R130) -/

theorem syncPair_of {s : State} {k : CtxId} {f g : SrcId} (fed : s.fedAvailable (s.context k).set = some f)
    (target : (s.context k).target = some (.source g)) (apart : f ≠ g) : s.syncPair k = some (f, g) := by
  unfold State.syncPair
  dsimp only
  rw [fed, target]
  exact if_neg apart

/-- The head of the claim queue, its claim found waiting, is granted: the fold of tries ends at the first. -/
theorem grantHead_granted {s t : State} {k : CtxId} {ks : List CtxId} {f g : SrcId} (n : Nat) (due : k ∈ s.sync.due)
    (head : s.sync.claims = k :: ks)
    (ht : t = { s with sync := { s.sync with claims := ks, due := s.sync.due.filter (· != k) } })
    (pair : t.syncPair k = some (f, g)) :
    grantHead (n + 1) s = { t.updContext k (fun c => { c with claim := .held }) with
      sync := { hold := some (t.newHold k f g), claims := ks, due := [] } } := by
  unfold grantHead
  rw [head]
  dsimp only
  rw [if_pos (by simpa using due), ← ht, pair]

theorem unwatched_of_steady {s : State} (steady : s.steady) (k : CtxId) : (s.context k).unwatched := steady.2 k

/-- Settles O55: the grant makes the holder, its pair the feeding and the target source. -/
theorem syncGrantMakesTheHolder : Obligations.SyncGrantMakesTheHolder := by
  intro s k ks f g due free head fed target apart steady
  have waits : (!s.sync.due.isEmpty && s.sync.hold.isNone) = true := by
    rw [free]
    cases waiting : s.sync.due with
    | nil => rw [waiting] at due; cases due
    | cons _ _ => rfl
  have granted := grantHead_granted 31 due head rfl (syncPair_of fed target apart)
  obtain ⟨D, marked, ended⟩ := next_finish_steady (u := grantHead (31 + 1) s) (t := s) (marks := s.dirty)
    (by rw [granted]; exact steady_setContext steady rfl rfl (unwatched_of_steady steady k))
    (by rw [granted]; exact fun off mem => mem)
  rw [granted] at ended
  have row : exec .syncGrant s = .next ((grantHead (31 + 1) s).finish s) := by
    show execSyncGrant s = _
    unfold execSyncGrant
    rw [waits]
    rfl
  exact ⟨D, marked, _, (row.trans (by rw [granted])).trans ended, rfl, rfl, rfl, rfl⟩

/-! ## Leave (R131, R135) -/

/-- The state with the selection changed. -/
def State.holding (s : State) (h : SyncHold) : State := { s with sync := { s.sync with hold := some h } }

theorem leave_iff (h : SyncHold) : h.leave = true ↔ h.settle = none ∧ h.filter.level = true := by
  simp [SyncHold.leave]

theorem changeHold_without_leave {s : State} {old new : SyncHold}
    (none : ¬(new.settle = none ∧ new.filter.level = true ∧ ¬(old.settle = none ∧ old.filter.level = true))) :
    s.changeHold old new = s.holding new := by
  unfold State.changeHold
  refine if_neg fun both => none ?_
  obtain ⟨leave, before⟩ := Bool.and_eq_true_iff.1 both
  obtain ⟨settled, level⟩ := (leave_iff new).1 leave
  refine ⟨settled, level, fun had => ?_⟩
  rw [(leave_iff old).2 had] at before
  cases before

theorem changeHold_with_leave {s : State} {old new : SyncHold} (settled : new.settle = none)
    (level : new.filter.level = true) (before : ¬(old.settle = none ∧ old.filter.level = true)) :
    s.changeHold old new = onLeave assign new.context new.running (s.holding new) := by
  unfold State.changeHold
  refine if_pos ?_
  rw [(leave_iff new).2 ⟨settled, level⟩, Bool.eq_false_iff.2 fun had => before ((leave_iff old).1 had)]
  rfl

/-- Leave to a holder in SYNC_WAIT whose check holds queues the CLOSE of its route device (R135). -/
theorem onLeave_closes {s : State} {k : CtxId} {running : SrcId} {d : DevId} (active : s.active k = true)
    (phase : (s.context k).phase = .syncWait) (check : s.closedCheck k = true)
    (fed : s.fedAvailable (s.context k).set = some running) (route : (s.context k).routeDevice = some d) :
    onLeave assign k running s =
      (s.command k .cls (some d)).updContext k fun c => { c with phase := .closingParallel } := by
  unfold onLeave
  rw [if_pos (by simp [active, phase]), if_pos (by simp [check, fed]), route]

/-- The row of a change of the selection, at its event. -/
theorem exec_selection {s : State} {h new : SyncHold} {row : Instr} (hold : s.sync.hold = some h)
    (change : (row = .syncLevelChange ∧ h.filter.change = true ∧
        new = { h with filter := { level := !h.filter.level, count := h.filter.count, change := false } }) ∨
      (row = .settleExpiry ∧ h.settle = some s.ms ∧ new = { h with settle := none })) :
    exec row s = .next ((s.changeHold h new).finish s) := by
  rcases change with ⟨rfl, changes, rfl⟩ | ⟨rfl, due, rfl⟩
  · show execSyncLevelChange s = _
    unfold execSyncLevelChange
    rw [hold]
    dsimp only
    rw [changes]
    rfl
  · show execSettleExpiry s = _
    unfold execSettleExpiry
    rw [hold]
    dsimp only
    rw [show s.due h.settle = true by simp [State.due, due]]
    rfl

theorem selection_same {s : State} {h new : SyncHold} {row : Instr}
    (change : (row = .syncLevelChange ∧ h.filter.change = true ∧
        new = { h with filter := { level := !h.filter.level, count := h.filter.count, change := false } }) ∨
      (row = .settleExpiry ∧ h.settle = some s.ms ∧ new = { h with settle := none })) :
    new.context = h.context ∧ new.running = h.running := by
  rcases change with ⟨_, _, rfl⟩ | ⟨_, _, rfl⟩
  · exact ⟨rfl, rfl⟩
  · exact ⟨rfl, rfl⟩

/-- Settles O56: a change without leave moves the selection alone, one with leave queues the CLOSE of the parallel. -/
theorem leaveQueuesTheParallelClose : Obligations.LeaveQueuesTheParallelClose := by
  intro s h new row hold steady change
  refine ⟨fun silent => ?_, fun d settled level before active phase check fed route own => ?_⟩
  · rw [exec_selection hold change, changeHold_without_leave silent]
    exact next_finish steady (fun off mem => mem) rfl rfl
  · obtain ⟨same, running⟩ := selection_same change
    obtain ⟨D, marked, queued⟩ := command_shape (s := s.holding new) .cls own
    rw [exec_selection hold change, changeHold_with_leave settled level before, same, running,
      onLeave_closes (s := s.holding new) active phase check fed route, queued]
    refine next_finish_steady (steady_setContext (k := h.context) steady rfl rfl ?_) marked
    exact fun watched => by cases watched.2

end Sys2Proof.Machine
end

section
/-! PROOFS. The 1 ms tick: the count, the lines and the samples (R19, R76, R77, R131, R159, R176). -/

namespace Sys2Proof.Machine

/-! ## A line filter (R76) -/

/-- A differing sample short of the filter's length is counted. -/
theorem sample_counts {x : Filter} {n : Nat} {line : Bool} (long : n ≤ 8) (differs : line ≠ x.level)
    (short : x.count.toNat + 1 < n) :
    (x.sample n line).level = x.level ∧ (x.sample n line).count.toNat = x.count.toNat + 1 ∧
      (x.sample n line).change = false := by
  unfold Filter.sample
  rw [if_neg differs, if_neg (by omega)]
  refine ⟨rfl, ?_, rfl⟩
  show (x.count + 1).toNat = _
  rw [BitVec.toNat_add]
  exact Nat.mod_eq_of_lt (by simp; omega)

/-- The sample that completes the filter's length: the level is to change. -/
theorem sample_completes {x : Filter} {n : Nat} {line : Bool} (differs : line ≠ x.level) (full : n ≤ x.count.toNat + 1) :
    x.sample n line = { level := x.level, count := 0, change := true } := by
  unfold Filter.sample
  rw [if_neg differs, if_pos full]

theorem sample_same {x : Filter} {n : Nat} {line : Bool} (same : line = x.level) :
    x.sample n line = { level := x.level, count := 0, change := false } := by
  unfold Filter.sample
  rw [if_pos same]

/-! ## The samples of a tick -/

/-- The count, the lines, the memory and the ports after a tick that finds t once the events left over are carried out. -/
theorem sampleLines_rest (t : State) (sh lk : BitVec 4) (eop sync : Bool) (u : State)
    (hu : u = ({ t with ms := t.ms + 1, pins := { sh := sh, lk := lk, eop := eop, sync := sync } }).sampleLines sh lk eop
      sync) :
    u.ms = t.ms + 1 ∧ u.pins = { sh := sh, lk := lk, eop := eop, sync := sync } ∧ u.image = t.image ∧
      u.pPort = t.pPort ∧ u.fPort = t.fPort := by
  subst hu
  unfold State.sampleLines
  split
  · exact ⟨rfl, rfl, rfl, rfl, rfl⟩
  · exact ⟨rfl, rfl, rfl, rfl, rfl⟩

theorem sampleLines_unconfigured {s : State} (sh lk : BitVec 4) (eop sync : Bool) (unconfigured : s.guarding = false) :
    s.sampleLines sh lk eop sync = s := by
  unfold State.sampleLines
  rw [if_neg (by simp [unconfigured])]

theorem sampleLines_guarding {s : State} (sh lk : BitVec 4) (eop sync : Bool) (guarding : s.guarding = true) :
    s.sampleLines sh lk eop sync =
      { s with sources := s.sampleHealth sh, locks := s.sampleLocks lk, latch := s.latch.sample eop,
               sync := s.sync.sample sync } := by
  unfold State.sampleLines
  rw [if_pos guarding]

/-- The tick when nothing of the millisecond is left over. -/
theorem ticked_of_no_event {s : State} (sh lk : BitVec 4) (eop sync : Bool) (left : s.leftEvents = s) :
    s.ticked sh lk eop sync =
      ({ s with ms := s.ms + 1, pins := { sh := sh, lk := lk, eop := eop, sync := sync } }).sampleLines sh lk eop
        sync := by
  unfold State.ticked
  rw [left]

/-- No event of a millisecond moves the count. -/
theorem leftEvents_ms (s : State) : s.leftEvents.ms = s.ms :=
  (((leftEvents_happen s).keeps (c := .syncGrant)).unmoved fun _ => by simp).clock (fun _ _ _ _ => by simp) |>.1

theorem sync_sample (x : SyncSelector) (sync : Bool) :
    (∀ h, x.hold = some h → (x.sample sync).hold = some { h with filter := h.filter.sample 2 sync } ∧
      (x.sample sync).due = []) ∧
    (x.hold = none → (x.sample sync).hold = none ∧ (x.sample sync).due = x.claims) ∧
      (x.sample sync).claims = x.claims := by
  unfold SyncSelector.sample
  cases held : x.hold with
  | some h =>
    refine ⟨fun h' same => ?_, fun free => (by cases free), rfl⟩
    cases same
    exact ⟨rfl, rfl⟩
  | none => exact ⟨fun h' same => (by cases same), fun _ => ⟨rfl, rfl⟩, rfl⟩

/-- Settles O59: the tick advances the count, and each sample goes through its filter while GUARDING. -/
theorem tickAdvancesAndSamples : Obligations.TickAdvancesAndSamples := by
  refine ⟨fun sh lk eop sync s => ?_, fun sh lk eop sync s left unconfigured => ?_,
    fun sh lk eop sync s left guarding => ?_,
    fun x n line _ long => ⟨sample_same, sample_counts long, sample_completes, rfl⟩⟩
  · obtain ⟨ms, pins, image, pPort, fPort⟩ := sampleLines_rest s.leftEvents sh lk eop sync (s.ticked sh lk eop sync) rfl
    obtain ⟨left_p, left_f⟩ := (leftEvents_happen s).ports
    have left_image : s.leftEvents.image = s.image := ((leftEvents_happen s).keeps (c := .syncGrant)).image
    exact ⟨s.ticked sh lk eop sync, exec_millisecondTick sh lk eop sync s, by rw [ms, leftEvents_ms], pins,
      image.trans left_image, pPort.trans left_p, fPort.trans left_f⟩
  · rw [exec_millisecondTick, ticked_of_no_event sh lk eop sync left, sampleLines_unconfigured]
    exact unconfigured
  · obtain ⟨held, free, claims⟩ := sync_sample s.sync sync
    refine ⟨s.sampleHealth sh, s.sampleLocks lk, s.latch.sample eop, s.sync.sample sync, fun n => Four.get_ofFn _ n,
      fun b => Four.get_ofFn _ b, fun seeded => ?_, fun waiting => ?_, held, free, claims, ?_⟩
    · unfold Latch.sample
      rw [seeded]
      exact congrArg (Latch.mk _ _) seeded.symm
    · unfold Latch.sample
      rw [waiting]
    · rw [exec_millisecondTick, ticked_of_no_event sh lk eop sync left, sampleLines_guarding]
      · rfl
      · exact guarding

end Sys2Proof.Machine
end

section
/-! PROOFS. The Source Monitor, the locks and the operate deadlines (R44, R76 to R86, R98, R100). First the record of a
source changed twice; then the rows. -/

namespace Sys2Proof.Machine

/-! ## The record of a source -/

theorem source_updSource (s : State) (n : SrcId) (f : Source → Source) :
    (s.updSource n f).source n = f (s.source n) := Four.get_set_same _ _ _

theorem updSource_updSource (s : State) (n : SrcId) (f g : Source → Source) :
    (s.updSource n f).updSource n g = s.updSource n fun x => g (f x) := by
  show (s.updSource n f).setSource n (g ((s.updSource n f).source n)) = _
  rw [source_updSource]
  unfold State.updSource State.setSource
  rw [Four.set_set]

/-- The end of an event that changes the record of a source, and no more. -/
theorem next_updSource {s : State} (n : SrcId) (f : Source → Source) (steady : s.steady) :
    ∃ D, (∀ off ∈ s.dirty, off ∈ D) ∧
      (Host.Outcome.next ((s.updSource n f).finish s) : Host.Outcome State Fault Refusal) =
        .next { s with sources := s.sources.set n (f (s.source n)), dirty := D } :=
  next_finish (u := s.updSource n f) steady (fun _ mem => mem) rfl rfl

/-- The end of an event that changes the record of a source and raises a frame. -/
theorem next_updSource_raise {s : State} (n : SrcId) (f : Source → Source) (i : Incident) (steady : s.steady)
    (unmarked : s.slotUnmarked) :
    ∃ D, (∀ off ∈ s.dirty ++ s.frameMarks, off ∈ D) ∧
      (Host.Outcome.next (((s.updSource n f).raise i).finish s) : Host.Outcome State Fault Refusal) =
        .next { s with
          sources := s.sources.set n (f (s.source n)), recorder := (s.updSource n f).recorded i, dirty := D } := by
  have same : (s.updSource n f).slotUnmarked := unmarked.of rfl
  rw [raise_recorded _ _ same]
  exact next_finish steady (fun off mem => (mem_markList _ _ _).2 (List.mem_append.1 mem)) rfl rfl

/-! ## Health levels (R78, R80) -/

theorem exec_healthLevelFall_due {s : State} {n : SrcId} (change : (s.source n).health.change = true)
    (level : (s.source n).health.level = true) : exec (.healthLevelFall n) s = .next ((s.healthFalls n).finish s) := by
  show execHealthLevelFall n s = _
  unfold execHealthLevelFall
  rw [show (s.source n).health.turnsTo false = true by simp [Filter.turnsTo, change, level], event_due]

theorem exec_healthLevelRise_due {s : State} {n : SrcId} (change : (s.source n).health.change = true)
    (level : (s.source n).health.level = false) : exec (.healthLevelRise n) s = .next ((s.healthRises n).finish s) := by
  show execHealthLevelRise n s = _
  unfold execHealthLevelRise
  rw [show (s.source n).health.turnsTo true = true by simp [Filter.turnsTo, change, level], event_due]

/-- A loss that no ACTIVE context is there to hear. -/
theorem tellLost_nobody {s : State} (n : SrcId) (idle : s.noTransfer) : s.tellLost n = s := tellEach_none _ _ _ idle

/-- The record of a source whose filtered level falls, at the ms count `now` with the ride-through `ride` (R78, R80). -/
def Source.falls (now ride : Ms) (x : Source) : Source :=
  { x with
    health := x.health.turn,
    state := match x.state with | .available => .dip | .proving => .failed | y => y,
    ride := match x.state with | .available => some (now + ride) | _ => x.ride,
    dipStart := match x.state with | .available => now | _ => x.dipStart,
    stab := match x.state with | .proving => none | _ => x.stab }

theorem healthFalls_eq {s : State} {n : SrcId} (idle : (s.source n).state = .proving → s.noTransfer) :
    s.healthFalls n =
      s.updSource n fun _ => (s.source n).falls s.ms (BitVec.ofNat 32 (s.sourceEntry n).rideThrough) := by
  unfold State.healthFalls Source.falls
  dsimp only
  rw [source_updSource, updSource_updSource, updSource_updSource]
  cases state : (s.source n).state with
  | proving =>
    have quiet := idle state
    dsimp only
    rw [tellLost_nobody]
    · rfl
    · exact quiet
  | available => rfl
  | failed =>
    unfold State.updSource
    dsimp only
    rw [state]
  | dip =>
    unfold State.updSource
    dsimp only
    rw [state]

/-- The record of a source not in DIP whose filtered level rises (R78, R80). -/
def Source.rises (now stability : Ms) (x : Source) : Source :=
  { x with
    health := x.health.turn,
    state := match x.state with | .failed => .proving | y => y,
    stab := match x.state with | .failed => some (now + stability) | _ => x.stab }

theorem healthRises_eq {s : State} {n : SrcId} (up : (s.source n).state ≠ .dip) :
    s.healthRises n =
      s.updSource n fun _ => (s.source n).rises s.ms (BitVec.ofNat 32 (s.sourceEntry n).stability) := by
  unfold State.healthRises Source.rises
  dsimp only
  rw [source_updSource, updSource_updSource]
  cases state : (s.source n).state with
  | dip => exact absurd state up
  | failed => rfl
  | proving =>
    unfold State.updSource
    dsimp only
    rw [state]
  | available =>
    unfold State.updSource
    dsimp only
    rw [state]

/-- A source in DIP that comes back: AVAILABLE, and the frame of its dip (R78, R81). -/
theorem healthRises_of_dip {s : State} {n : SrcId} (down : (s.source n).state = .dip) :
    s.healthRises n =
      (s.updSource n fun x => { x with health := x.health.turn, state := .available, ride := none }).raise
        (s.sourceIncident .sourceDip n (s.dipLength n)) := by
  unfold State.healthRises
  dsimp only
  rw [source_updSource]
  dsimp only
  rw [down]
  dsimp only
  rw [updSource_updSource]
  congr 1
  unfold State.sourceIncident State.dipLength
  rw [source_updSource]
  rfl

theorem turn_of_level {x : Filter} {level : Bool} (h : x.level = level) :
    x.turn = { level := !level, count := x.count, change := false } := by
  rw [← h]
  rfl

/-- Settles O42: each turn of a filtered health level, by the state that it finds the source in. -/
theorem healthLevelsTurn : Obligations.HealthLevelsTurn := by
  refine ⟨fun s n x source change level steady idle => ?_, fun s n x source change level steady up => ?_,
    fun s n x source change level steady unmarked down => ?_⟩
  · subst source
    rw [exec_healthLevelFall_due change level, healthFalls_eq idle]
    obtain ⟨D, marked, ended⟩ := next_updSource n
      (fun _ => (s.source n).falls s.ms (BitVec.ofNat 32 (s.sourceEntry n).rideThrough)) steady
    refine ⟨D, marked, ended.trans ?_⟩
    unfold Source.falls
    rw [turn_of_level level]
    rfl
  · subst source
    rw [exec_healthLevelRise_due change level, healthRises_eq up]
    obtain ⟨D, marked, ended⟩ := next_updSource n
      (fun _ => (s.source n).rises s.ms (BitVec.ofNat 32 (s.sourceEntry n).stability)) steady
    refine ⟨D, marked, ended.trans ?_⟩
    unfold Source.rises
    rw [turn_of_level level]
    rfl
  · subst source
    rw [exec_healthLevelRise_due change level, healthRises_of_dip down]
    obtain ⟨D, marked, ended⟩ := next_updSource_raise n
      (fun x => { x with health := x.health.turn, state := .available, ride := none })
      (s.sourceIncident .sourceDip n (s.dipLength n)) steady unmarked
    refine ⟨D, marked, ended.trans ?_⟩
    rw [turn_of_level level]
    rfl

/-! ## The timers of a source (R79 to R86) -/

/-- A context that the loss does not concern stands: its target is fed otherwise, and it holds no claim against the source
(R144, R146). -/
def State.unconcerned (s : State) (n : SrcId) (k : CtxId) : Prop :=
  s.active k = true → s.targetSource (s.context k) ≠ some n ∧
    ((s.context k).phase ≠ .syncWait ∨ (s.context k).oldSources.get n = false ∨ (s.context k).claim = .none)

theorem onSourceLost_unconcerned {s : State} {n : SrcId} {k : CtxId} (asg : State → State) (h : s.unconcerned n k) :
    onSourceLost asg n s k = s := by
  unfold onSourceLost
  dsimp only
  by_cases active : s.active k = true
  · obtain ⟨target, claim⟩ := h active
    rw [if_neg (by simp [active]), if_neg target, if_neg]
    rcases claim with phase | old | claim
    · simp [phase]
    · simp [old]
    · simp [claim]
  · rw [if_pos (by simp [active])]

theorem tellLost_unconcerned {s : State} {n : SrcId} (h : ∀ k, s.unconcerned n k) : s.tellLost n = s :=
  foldl_fixed _ s (fun k => onSourceLost_unconcerned assign (h k)) _

theorem exec_rideThroughExpiry_due {s : State} {n : SrcId} (dip : (s.source n).state = .dip)
    (ride : (s.source n).ride = some s.ms) : exec (.rideThroughExpiry n) s = .next ((s.rideExpires n).finish s) := by
  show execRideThroughExpiry n s = _
  unfold execRideThroughExpiry
  rw [show ((s.source n).state == .dip && s.due (s.source n).ride) = true by simp [dip, State.due, ride], event_due]

theorem exec_stabilityExpiry_due {s : State} {n : SrcId} (proving : (s.source n).state = .proving)
    (stab : (s.source n).stab = some s.ms) :
    exec (.stabilityExpiry n) s = .next ((s.stabilityExpires n).finish s) := by
  show execStabilityExpiry n s = _
  unfold execStabilityExpiry
  rw [show ((s.source n).state == .proving && s.due (s.source n).stab) = true by simp [proving, State.due, stab],
    event_due]

/-- The state once a source has entered FAILED with its frame raised, before anyone is told (R79, R82). -/
def State.lost (s : State) (n : SrcId) : State :=
  (s.updSource n fun x => { x with state := .failed, ride := none }).raise (s.sourceIncident .sourceLoss n 0)

theorem lost_eq {s : State} (n : SrcId) (unmarked : s.slotUnmarked) :
    s.lost n = { s with
      sources := s.sources.set n { s.source n with state := .failed, ride := none },
      recorder := s.recorded (s.sourceIncident .sourceLoss n 0), dirty := markList s.frameMarks s.dirty } := by
  have same : (s.updSource n fun x => { x with state := .failed, ride := none }).slotUnmarked := unmarked.of rfl
  exact raise_recorded _ _ same

/-- The same of a source that enters AVAILABLE (R80, R83). -/
def State.returned (s : State) (n : SrcId) : State :=
  (s.updSource n fun x => { x with state := .available, stab := none }).raise (s.sourceIncident .sourceReturn n 0)

theorem returned_eq {s : State} (n : SrcId) (unmarked : s.slotUnmarked) :
    s.returned n = { s with
      sources := s.sources.set n { s.source n with state := .available, stab := none },
      recorder := s.recorded (s.sourceIncident .sourceReturn n 0), dirty := markList s.frameMarks s.dirty } := by
  have same : (s.updSource n fun x => { x with state := .available, stab := none }).slotUnmarked := unmarked.of rfl
  exact raise_recorded _ _ same

theorem rideExpires_eq (s : State) (n : SrcId) :
    s.rideExpires n =
      if ((s.lost n).tellLost n).board.responses.lossTransfer then
        ((s.lost n).tellLost n).evaluate assign (some s.recorder.index) (((s.lost n).tellLost n).fedIslands n)
      else (s.lost n).tellLost n := rfl

/-- Under REPORT a loss is told to the contexts, and no island is evaluated (R82). -/
theorem rideExpires_report {s : State} {n : SrcId} (report : ((s.lost n).tellLost n).board.responses.lossTransfer = false) :
    s.rideExpires n = (s.lost n).tellLost n := by
  rw [rideExpires_eq, if_neg (by simp [report])]

/-- The contexts that wait for a source are told of its return (R83, R114). -/
def State.tellReturned (s : State) : State := s.tellEach s.awaitsSource (onSourceReturned assign)

theorem stabilityExpires_eq (s : State) (n : SrcId) :
    s.stabilityExpires n =
      if (s.returned n).tellReturned.board.responses.returnReturn then
        (s.returned n).tellReturned.wellFedIslands.foldl
          (fun u b => u.evaluateReturn assign b (some s.recorder.index)) (s.returned n).tellReturned
      else (s.returned n).tellReturned := rfl

/-- Under REPORT a return that no context awaits is framed, and no island is evaluated (R83). -/
theorem stabilityExpires_report {s : State} {n : SrcId} (report : (s.returned n).board.responses.returnReturn = false)
    (nobody : ∀ k, (s.returned n).awaitsSource k = false) : s.stabilityExpires n = s.returned n := by
  have told : (s.returned n).tellReturned = s.returned n := tellEach_none _ _ _ nobody
  rw [stabilityExpires_eq, told, if_neg (by simp [report])]

theorem rq_eq (s : State) (n : SrcId) :
    s.rq n = ((s.sourceEntry n).generator && ((s.source n).demand || (s.source n).cool.isSome)) := rfl

/-- Settles O43: the timers of a source expire, and the RQ line follows run demand and cool-down. -/
theorem sourceTimersExpire : Obligations.SourceTimersExpire := by
  refine ⟨fun s n dip ride report apart steady unmarked => ?_, fun s n proving stab report nobody steady unmarked => ?_,
    fun s n cool steady => ?_, fun s n inv => ⟨fun generator closed => ?_, rq_of_no_generator⟩⟩
  · have lost := lost_eq n unmarked
    have told : (s.lost n).tellLost n = s.lost n := tellLost_unconcerned fun k => by rw [lost]; exact apart k
    rw [exec_rideThroughExpiry_due dip ride, rideExpires_report (by rw [told, lost]; exact report), told, lost]
    exact next_finish steady (fun off mem => (mem_markList _ _ _).2 (List.mem_append.1 mem)) rfl rfl
  · have returned := returned_eq n unmarked
    have quiet : ∀ k, (s.returned n).awaitsSource k = false := fun k => by
      rw [returned]
      refine Bool.eq_false_iff.2 fun awaits => ?_
      obtain ⟨active, phase⟩ := Bool.and_eq_true_iff.1 awaits
      exact nobody k active (beq_iff_eq.1 phase)
    rw [exec_stabilityExpiry_due proving stab, stabilityExpires_report (by rw [returned]; exact report) quiet, returned]
    exact next_finish steady (fun off mem => (mem_markList _ _ _).2 (List.mem_append.1 mem)) rfl rfl
  · have row : exec (.coolDownExpiry n) s = .next ((s.updSource n fun x => { x with cool := none }).finish s) := by
      show execCoolDownExpiry n s = _
      unfold execCoolDownExpiry
      rw [show s.due (s.source n).cool = true by simp [State.due, cool], event_due]
    obtain ⟨D, marked, ended⟩ := next_updSource n (fun x => { x with cool := none }) steady
    refine ⟨D, marked, _, row.trans ended, rfl, fun idle => ?_⟩
    rw [rq_eq]
    unfold State.source
    simp only [Four.get_set_same]
    rw [show (s.sources.get n).demand = false from idle]
    simp
  · rw [rq_eq, generator, inv.sound.demandsMet n generator closed]
    rfl

end Sys2Proof.Machine
end

section
/-! PROOFS. Filtered lock levels (R77, R98, R100) and operate deadlines (R44, R48, R147). -/

namespace Sys2Proof.Machine

/-! ## Requests that leave the queue (R100) -/

/-- A request leaves the queue and its sections take a state. -/
theorem withdraw_shape (s : State) (e : Request) (st : SectionState) :
    ∃ D S, (∀ off ∈ s.dirty, off ∈ D) ∧
      (∀ c, S.get c = if e.set.get c = true then { s.section c with state := st } else s.section c) ∧
      (s.removeRequest e).setSectionStates (FourSet.toList e.set) st =
        { s with sections := S, queue := s.queue.filter (· != e), dirty := D } := by
  unfold State.removeRequest
  obtain ⟨D₁, marked₁, removed⟩ := setQueue_shape s (s.queue.filter (· != e))
  rw [removed]
  obtain ⟨S, D, marked, sections, moved⟩ := setSectionStates_shape
    { s with queue := s.queue.filter (· != e), dirty := D₁ } (FourSet.toList e.set) st
  refine ⟨D, S, fun off mem => marked off (marked₁ off mem), fun c => ?_, moved⟩
  rw [sections]
  simp only [FourSet.mem_toList]
  rfl

/-! ## Locks -/

theorem exec_lockLevelRise_due {s : State} {b : SecId} (change : (s.locks.get b).change = true)
    (level : (s.locks.get b).level = false) : exec (.lockLevelRise b) s = .next ((s.lockRises b).finish s) := by
  show execLockLevelRise b s = _
  unfold execLockLevelRise
  rw [show (s.locks.get b).turnsTo true = true by simp [Filter.turnsTo, change, level], event_due]

theorem exec_lockLevelFall_due {s : State} {b : SecId} (change : (s.locks.get b).change = true)
    (level : (s.locks.get b).level = true) :
    exec (.lockLevelFall b) s = .next (((s.turnLock b).evaluate assign none [b]).finish s) := by
  show execLockLevelFall b s = _
  unfold execLockLevelFall
  rw [show (s.locks.get b).turnsTo false = true by simp [Filter.turnsTo, change, level], event_due]

/-- The filter of a lock line turned, as a record. -/
theorem turnLock_of_level {s : State} {b : SecId} {level : Bool} (h : (s.locks.get b).level = level) :
    s.turnLock b = { s with
      locks := s.locks.set b { level := !level, count := (s.locks.get b).count, change := false } } := by
  rw [turnLock_eq, turn_of_level h]

/-- Whatever an event goes on to do once a lock filter has turned, the section is locked or not, and memory stays. -/
theorem lock_after_turn {s v : State} {b : SecId} {level : Bool} (h : (s.locks.get b).level = level)
    (inside : Inside (s.turnLock b) v) : (v.finish s).isLocked b = !level ∧ (v.finish s).image = s.image := by
  have whole := inside.trans (Inside.finish v s)
  refine ⟨?_, whole.image⟩
  unfold State.isLocked
  rw [whole.locks, turnLock_of_level h]
  simp

/-- A rise on a section that no request or transfer holds and that is not ARMED moves the level alone. -/
theorem lockRises_at_rest {s : State} {b : SecId}
    (rest : (s.section b).state = .disarmed ∨ (s.section b).state = .held ∨ (s.section b).state = .lockout) :
    s.lockRises b = s.turnLock b := by
  unfold State.lockRises
  dsimp only
  have same : (s.turnLock b).section b = s.section b := rfl
  rw [same]
  rcases rest with state | state | state <;> rw [state]

theorem lockRises_queued {s : State} {b : SecId} {e : Request} (queued : (s.section b).state = .queued)
    (request : s.requestOf b = some e) : s.lockRises b = (s.turnLock b).withdrawHeld e := by
  unfold State.lockRises
  dsimp only
  have same : (s.turnLock b).section b = s.section b := rfl
  have entry : (s.turnLock b).requestOf b = s.requestOf b := rfl
  rw [same, queued, entry, request]

/-- Settles O46: a lock level turns, and what that does to the section. -/
theorem lockLevelsTurn : Obligations.LockLevelsTurn := by
  refine ⟨fun s b change level => ?_, fun s b change level => ?_, fun s b x lock change level steady rest => ?_,
    fun s b x e lock change level steady queued request => ?_, fun s b x lock change level steady quiet => ?_⟩
  · exact ⟨_, exec_lockLevelRise_due change level, lock_after_turn level (.lockRises s b)⟩
  · exact ⟨_, exec_lockLevelFall_due change level, lock_after_turn level (.evaluate .assign none [b] _)⟩
  · subst lock
    rw [exec_lockLevelRise_due change level, lockRises_at_rest rest, turnLock_of_level level]
    exact next_finish steady (fun _ mem => mem) rfl rfl
  · subst lock
    obtain ⟨D₁, S, marked₁, sections, withdrawn⟩ := withdraw_shape (s.turnLock b) e .held
    rw [exec_lockLevelRise_due change level, lockRises_queued queued request]
    unfold State.withdrawHeld
    rw [withdrawn, turnLock_of_level level]
    obtain ⟨D, marked, ended⟩ := next_finish (marks := s.dirty) (t := s)
      (u := { s with
        locks := s.locks.set b { level := !false, count := (s.locks.get b).count, change := false }, sections := S,
        queue := s.queue.filter (· != e), dirty := D₁ }) steady marked₁ rfl rfl
    exact ⟨D, S, marked, sections, ended⟩
  · subst lock
    have nothing : (s.turnLock b).nothingToEvaluate := quiet
    rw [exec_lockLevelFall_due change level, evaluate_nothing _ _ _ _ nothing, turnLock_of_level level]
    exact next_finish steady (fun _ mem => mem) rfl rfl

/-! ## Operate deadlines (R44) -/

theorem exec_operateDeadlineExpiry_due {s : State} {d : DevId} {c : Cmd} (record : s.hasRecord d = true)
    (op : (s.device d).op = .inProgress c s.ms) :
    exec (.operateDeadlineExpiry d) s = .next ((s.missDeadline d c).finish s) := by
  have due : s.deadlineDue d = some c := by
    unfold State.deadlineDue
    rw [op]
    simp [record]
  show execOperateDeadlineExpiry d s = _
  unfold execOperateDeadlineExpiry
  rw [due]

/-- The frame of a missed deadline (R41, R44). -/
def State.noResponse (s : State) (d : DevId) (c : Cmd) : Incident :=
  { s.deviceIncident .deviceNoResponse d with w5 := BitVec.ofNat 16 c.code }

/-- The state once the deadline of a device is missed and framed, before its owner is told. -/
def State.missed (s : State) (d : DevId) (c : Cmd) : State :=
  (s.updDevice d fun x => { x with fail := true, op := .idle }).raise (s.noResponse d c)

theorem missDeadline_eq (s : State) (d : DevId) (c : Cmd) :
    s.missDeadline d c = (s.missed d c).tellOwner d fun k => onFailed assign k d c := rfl

theorem missed_eq {s : State} {d : DevId} (c : Cmd) (unmarked : s.slotUnmarked) :
    s.missed d c = { s with
      devices := s.devices.set d { s.device d with fail := true, op := .idle },
      recorder := s.recorded (s.noResponse d c), dirty := markList s.frameMarks s.dirty } := by
  have same : (s.updDevice d fun x => { x with fail := true, op := .idle }).slotUnmarked := unmarked.of rfl
  exact raise_recorded _ _ same

theorem missed_ownerContext {s : State} {d : DevId} {c : Cmd} (unmarked : s.slotUnmarked) :
    (s.missed d c).ownerContext d = s.ownerContext d := by
  rw [missed_eq c unmarked]
  unfold State.ownerContext State.device
  rw [Sixteen.get_set_same]

theorem noResponse_free {s : State} {d : DevId} (c : Cmd) (free : s.ownedByNoContext d) :
    s.noResponse d c =
      { cls := .deviceNoResponse, sec := s.frameSection d, dev := some d, src := s.incomerSource d,
        w5 := BitVec.ofNat 16 c.code } := by
  unfold State.noResponse State.deviceIncident
  rw [free]
  rfl

theorem ownerContext_of_context {s : State} {d : DevId} {k : CtxId} (owner : (s.device d).owner = .context k) :
    s.ownerContext d = some k := by
  unfold State.ownerContext
  rw [owner]

theorem noResponse_owned {s : State} {d : DevId} {k : CtxId} (c : Cmd) (owner : (s.device d).owner = .context k) :
    s.noResponse d c =
      { cls := .deviceNoResponse, sec := s.frameSection d, dev := some d, src := s.incomerSource d, ctx := some k,
        cause := (s.context k).cause, w5 := BitVec.ofNat 16 c.code } := by
  unfold State.noResponse State.deviceIncident
  rw [ownerContext_of_context owner]
  rfl

/-- A missed deadline that is not the context's own concern changes nothing in it (R147; log 39). -/
theorem onFailed_foreign {s : State} {k : CtxId} {d : DevId} {c : Cmd} (asg : State → State)
    (foreign : (c = .cls ∧ (s.context k).routeDevice ≠ some d ∧ (s.context k).restoring ≠ some d) ∨
      (c = .opn ∧ (s.context k).sent.get d = false)) : onFailed asg k d c s = s := by
  unfold onFailed
  dsimp only
  split
  · rfl
  · rcases foreign with ⟨rfl, route, restoring⟩ | ⟨rfl, sent⟩
    · rw [if_neg (by simp)]
      cases (s.context k).phase <;> simp [route, restoring]
    · rw [if_neg (by simp [sent])]
      cases (s.context k).phase <;> simp [sent]

/-- Settles O47: a deadline missed is framed, and a context that it does not concern stands. -/
theorem operateDeadlineExpires : Obligations.OperateDeadlineExpires := by
  refine ⟨fun s d c record op free steady unmarked => ?_, fun s d c k record op owner foreign steady unmarked => ?_⟩
  · rw [exec_operateDeadlineExpiry_due record op, missDeadline_eq,
      tellOwner_none _ _ _ ((missed_ownerContext unmarked).trans free), missed_eq c unmarked, noResponse_free c free]
    exact next_finish steady (fun off mem => (mem_markList _ _ _).2 (List.mem_append.1 mem)) rfl rfl
  · have told : (s.missed d c).tellOwner d (fun k => onFailed assign k d c) = s.missed d c := by
      unfold State.tellOwner
      rw [missed_ownerContext unmarked, ownerContext_of_context owner]
      refine onFailed_foreign assign ?_
      rw [missed_eq c unmarked]
      exact foreign
    rw [exec_operateDeadlineExpiry_due record op, missDeadline_eq, told, missed_eq c unmarked, noResponse_owned c owner]
    exact next_finish steady (fun off mem => (mem_markList _ _ _).2 (List.mem_append.1 mem)) rfl rfl

end Sys2Proof.Machine
end

section
/-! PROOFS. Operations carried out for one device after another: owners, captures, seizures, queued commands. First tables
that agree, then the fold; then EOP_CLEAR (R166). -/

namespace Sys2Proof

theorem Three.ext_get {α : Type} {x y : Three α} (h : ∀ i, x.get i = y.get i) : x = y := by
  obtain ⟨x0, x1, x2⟩ := x
  obtain ⟨y0, y1, y2⟩ := y
  rw [show x0 = y0 from h 0, show x1 = y1 from h 1, show x2 = y2 from h 2]

theorem Four.ext_get {α : Type} {x y : Four α} (h : ∀ i, x.get i = y.get i) : x = y := by
  obtain ⟨x0, x1, x2, x3⟩ := x
  obtain ⟨y0, y1, y2, y3⟩ := y
  rw [show x0 = y0 from h 0, show x1 = y1 from h 1, show x2 = y2 from h 2, show x3 = y3 from h 3]

theorem rowOf_cellOf (r c : Fin 4) : rowOf (cellOf r c) = r := Fin.ext (by simp only [rowOf, cellOf]; omega)
theorem colOf_cellOf (r c : Fin 4) : colOf (cellOf r c) = c := Fin.ext (by simp only [colOf, cellOf]; omega)

theorem Sixteen.ext_get {α : Type} {x y : Sixteen α} (h : ∀ i, x.get i = y.get i) : x = y := by
  obtain ⟨x⟩ := x
  obtain ⟨y⟩ := y
  congr 1
  refine Four.ext_get fun r => Four.ext_get fun c => ?_
  have cell := h (cellOf r c)
  unfold Sixteen.get at cell
  rwa [rowOf_cellOf, colOf_cellOf] at cell

namespace Machine

/-! ## One device after another -/

theorem nodup_allDevices : allDevices.Nodup := by decide

theorem foldl_eq_of_agree {α β : Type} {f g : β → α → β} {xs : List α} (b : β)
    (agree : ∀ b, ∀ x ∈ xs, f b x = g b x) : xs.foldl f b = xs.foldl g b := by
  induction xs generalizing b with
  | nil => rfl
  | cons x xs ih =>
    rw [List.foldl_cons, List.foldl_cons, agree b x List.mem_cons_self]
    exact ih _ fun b y mem => agree b y (List.mem_cons_of_mem _ mem)

theorem foldl_doing_nothing {α β : Type} (b : β) (xs : List α) : xs.foldl (fun b _ => b) b = b := by
  induction xs with
  | nil => rfl
  | cons x xs ih => exact ih

/-- An operation carried out for each device of a list: where it changes the device's own record, the injection queue and
the dirty set, and reads no other record, each device finds its record as the fold began. -/
theorem foldl_devices_shape {s : State} {f : State → DevId → State} {g : DevId → Device → Device}
    {h : DevId → Device → List Injection → List Injection}
    (step : ∀ V I D d, ∃ D', (∀ off ∈ D, off ∈ D') ∧
      f { s with devices := V, injections := I, dirty := D } d =
        { s with devices := V.set d (g d (V.get d)), injections := h d (V.get d) I, dirty := D' })
    {ds : List DevId} (nodup : ds.Nodup) (V : Sixteen Device) (I : List Injection) (D : List Nat) :
    ∃ V' D', (∀ off ∈ D, off ∈ D') ∧ (∀ d, V'.get d = if d ∈ ds then g d (V.get d) else V.get d) ∧
      ds.foldl f { s with devices := V, injections := I, dirty := D } =
        { s with devices := V', injections := ds.foldl (fun q d => h d (V.get d) q) I, dirty := D' } := by
  induction ds generalizing V I D with
  | nil => exact ⟨V, D, fun _ mem => mem, by simp, rfl⟩
  | cons d ds ih =>
    obtain ⟨fresh, nodup⟩ := List.nodup_cons.1 nodup
    obtain ⟨D₁, marked₁, first⟩ := step V I D d
    obtain ⟨V', D', marked, records, rest⟩ := ih nodup (V.set d (g d (V.get d))) (h d (V.get d) I) D₁
    refine ⟨V', D', fun off mem => marked off (marked₁ off mem), fun e => ?_, ?_⟩
    · rw [records, Sixteen.get_set]
      by_cases own : e = d
      · subst own
        simp [fresh]
      · simp [own]
    · have later : ∀ e ∈ ds, (V.set d (g d (V.get d))).get e = V.get e := fun e mem =>
        Sixteen.get_set_ne V (ne_of_mem_of_not_mem mem fresh) _
      rw [List.foldl_cons, first, rest, List.foldl_cons]
      congr 1
      exact foldl_eq_of_agree _ fun q e mem => by rw [later e mem]

/-- The same for the devices of the whole table. -/
theorem foldl_allDevices_shape {s : State} {f : State → DevId → State} {g : DevId → Device → Device}
    {h : DevId → Device → List Injection → List Injection}
    (step : ∀ V I D d, ∃ D', (∀ off ∈ D, off ∈ D') ∧
      f { s with devices := V, injections := I, dirty := D } d =
        { s with devices := V.set d (g d (V.get d)), injections := h d (V.get d) I, dirty := D' }) :
    ∃ D, (∀ off ∈ s.dirty, off ∈ D) ∧ allDevices.foldl f s =
      { s with
        devices := Sixteen.ofFn fun d => g d (s.device d),
        injections := allDevices.foldl (fun q d => h d (s.device d) q) s.injections, dirty := D } := by
  obtain ⟨V, D, marked, records, folded⟩ := foldl_devices_shape step nodup_allDevices s.devices s.injections s.dirty
  refine ⟨D, marked, folded.trans ?_⟩
  rw [show V = Sixteen.ofFn fun d => g d (s.device d) from Sixteen.ext_get fun d => by
    rw [records, if_pos (mem_allDevices d), Sixteen.get_ofFn]
    rfl]
  rfl

theorem setOwner_shape (s : State) (d : DevId) (o : Owner) :
    ∃ D, (∀ off ∈ s.dirty, off ∈ D) ∧
      s.setOwner d o = { s with devices := s.devices.set d { s.device d with owner := o }, dirty := D } := by
  unfold State.setOwner
  split
  · next same =>
    refine ⟨s.dirty, fun _ mem => mem, ?_⟩
    rw [← same]
    show s = { s with devices := s.devices.set d (s.devices.get d) }
    rw [Sixteen.set_get]
  · exact ⟨_, fun off mem => (mem_markList [deviceStatusOffset d] _ _).2 (.inl mem), rfl⟩

/-! ## The general control word (R27) -/

/-- The bits of a general control word. -/
theorem flag_of_field {w : Word} {v : Nat} (h : field w 0 3 = v) (i : Nat) (lt : i < 3) : flag w i = v.testBit i := by
  rw [← h]
  unfold field flag
  rw [BitVec.testBit_toNat, BitVec.getLsbD_extractLsb']
  simp [lt]

/-- COMMIT, RESTART and EOP_CLEAR as the bits ask, each an event of its own. -/
theorem generalControl_eq (s : State) (w : Word) :
    s.generalControl w =
      ((s.event (flag w 0) State.commit).event (flag w 1) State.restart).event (flag w 2) State.eopClear := rfl

/-- A general control write with its EOP_CLEAR bit alone is EOP_CLEAR, as one event. -/
theorem exec_eopClear_granted {s t : State} {a : Access} (granted : s.grantsWrite .p a) (ht : s.granted .p = t)
    (hclass : t.classify a.addr = .control 0x100) (bits : field a.data 0 3 = 4) :
    exec .eopClear s = .next ((t.storeWord a.addr 0).eopClear.finish (t.storeWord a.addr 0)) := by
  have commit : flag a.data 0 = false := flag_of_field bits 0 (by decide)
  have restart : flag a.data 1 = false := flag_of_field bits 1 (by decide)
  have clear : flag a.data 2 = true := flag_of_field bits 2 (by decide)
  show execEopClear s = _
  unfold execEopClear
  rw [grantWrite_granted granted ht, generalWrite_of hclass clear, Option.getD_some, generalControl_eq, commit, restart,
    clear, event_not_due, event_not_due, event_due]

/-! ## EOP_CLEAR (R166) -/

/-- A device that the clearing of the latch returns to PROCESSOR. -/
def State.leftEmergency (s : State) (d : DevId) (x : Device) : Device :=
  if s.hasRecord d = true ∧ x.owner = .emergency then { x with owner := .processor } else x

theorem leaveEmergency_shape (s : State) (d : DevId) :
    ∃ D, (∀ off ∈ s.dirty, off ∈ D) ∧ s.leaveEmergency d =
      { s with devices := s.devices.set d (s.leftEmergency d (s.device d)), dirty := D } := by
  unfold State.leaveEmergency State.leftEmergency
  simp only [Bool.and_eq_true, beq_iff_eq]
  split
  · exact setOwner_shape s d .processor
  · refine ⟨s.dirty, fun _ mem => mem, ?_⟩
    show s = { s with devices := s.devices.set d (s.devices.get d) }
    rw [Sixteen.set_get]

theorem eopClear_idle {s : State} (idle : s.guarding = false ∨ s.latch.isSet = false) : s.eopClear = s := by
  unfold State.eopClear
  rw [if_neg]
  rcases idle with unconfigured | clear
  · simp [unconfigured]
  · simp [clear]

theorem eopClear_shape {s : State} (guarding : s.guarding = true) (isSet : s.latch.isSet = true) (empty : s.queue = []) :
    ∃ D, (∀ off ∈ s.dirty, off ∈ D) ∧ s.eopClear =
      { s with
        latch := { s.latch with isSet := false }, devices := Sixteen.ofFn fun d => s.leftEmergency d (s.device d),
        dirty := D } := by
  obtain ⟨D, marked, left⟩ := foldl_allDevices_shape (s := { s with latch := { s.latch with isSet := false } })
    (f := State.leaveEmergency) (g := s.leftEmergency) (h := fun _ _ q => q)
    fun V I D d => leaveEmergency_shape
      { s with latch := { s.latch with isSet := false }, devices := V, injections := I, dirty := D } d
  refine ⟨D, marked, ?_⟩
  unfold State.eopClear
  rw [if_pos (by simp [guarding, isSet]), left, assign_empty]
  · rw [foldl_doing_nothing]
    rfl
  · exact empty

/-- Settles O27: EOP_CLEAR clears the latch and returns the EMERGENCY-owned devices, or does nothing. -/
theorem eopClearReturnsDevices : Obligations.EopClearReturnsDevices := by
  refine ⟨fun s t a granted ht hclass bits guarding isSet empty steady => ?_,
    fun s t a granted ht hclass bits idle steady => ?_⟩
  · obtain ⟨D₁, marked₁, cleared⟩ := eopClear_shape (s := t.storeWord a.addr 0) guarding isSet empty
    rw [exec_eopClear_granted granted ht hclass bits, cleared]
    exact next_finish_steady (steady.of rfl rfl) marked₁
  · have stored : (t.storeWord a.addr 0).steady := steady.of rfl rfl
    have nothing : (t.storeWord a.addr 0).eopClear = t.storeWord a.addr 0 := eopClear_idle idle
    rw [exec_eopClear_granted granted ht hclass bits, nothing, finish_steady _ _ stored, markChanged_self]
    rfl

end Machine
end Sys2Proof
end

section
/-! PROOFS. ARM and DISARM where no transfer stands in their way (R92, R93). First what each makes of one section, then of
the sections of a list, then the rows. -/

namespace Sys2Proof.Machine

theorem ite_of_iff {α : Type} {p q : Prop} [Decidable p] [Decidable q] (h : p ↔ q) (x y : α) :
    (if p then x else y) = if q then x else y := ite_congr (propext h) (fun _ => rfl) fun _ => rfl

/-! ## ARM of one section -/

/-- ARM arms the section (R92). -/
def State.arms (s : State) (b : SecId) : Bool := s.armable b && s.armOpen

/-- ARM refuses the section: it is in LOCKOUT, or DISARMED or HELD while latched or UNCONFIGURED (R92). -/
def State.armRefuses (s : State) (b : SecId) : Bool := (s.section b).state == .lockout || (s.armable b && !s.armOpen)

theorem armable_of_lockout {s : State} {b : SecId} (lockout : (s.section b).state = .lockout) : s.armable b = false := by
  simp [State.armable, lockout]

theorem armOne_arms {s : State} {b : SecId} (a : Access) (arms : s.arms b = true) :
    State.armOne a s b = s.setSectionState b .armed := by
  obtain ⟨armable, armOpen⟩ := Bool.and_eq_true_iff.1 arms
  unfold State.armOne
  rw [if_neg fun lockout => by simp [armable_of_lockout lockout] at armable, if_pos armable, if_pos armOpen]

theorem armOne_refuses {s : State} {b : SecId} (a : Access) (refuses : s.armRefuses b = true) :
    State.armOne a s b = s.raise (armRefused b a) := by
  unfold State.armOne
  rcases Bool.or_eq_true_iff.1 refuses with lockout | shut
  · rw [if_pos (beq_iff_eq.1 lockout)]
  · obtain ⟨armable, shut⟩ := Bool.and_eq_true_iff.1 shut
    rw [if_neg fun lockout => by simp [armable_of_lockout lockout] at armable, if_pos armable, if_neg (by simpa using shut)]

theorem armOne_same {s : State} {b : SecId} (a : Access) (arms : s.arms b = false) (refuses : s.armRefuses b = false) :
    State.armOne a s b = s := by
  obtain ⟨lockout, shut⟩ := Bool.or_eq_false_iff.1 refuses
  have armable : s.armable b = false := by
    unfold State.arms at arms
    cases able : s.armable b with
    | false => rfl
    | true => cases armOpen : s.armOpen <;> simp [able, armOpen] at arms shut
  unfold State.armOne
  rw [if_neg (by simpa using lockout), if_neg (by simp [armable])]

/-- ARM does one thing or the other to a section. -/
theorem armRefuses_of_arms {s : State} {b : SecId} (arms : s.arms b = true) : s.armRefuses b = false := by
  obtain ⟨armable, armOpen⟩ := Bool.and_eq_true_iff.1 arms
  have up : (s.section b).state ≠ .lockout := fun lockout => by simp [armable_of_lockout lockout] at armable
  simp [State.armRefuses, up, armOpen]

theorem armRefuses_of_open {s : State} {b : SecId} (up : (s.section b).state ≠ .lockout) (armOpen : s.armOpen = true) :
    s.armRefuses b = false := by
  simp [State.armRefuses, up, armOpen]

/-! ## ARM of the sections of a list -/

/-- The frames of the sections that ARM refuses, raised one after another in unmarked slots. -/
def State.armFrames (s : State) (a : Access) (bs : List SecId) : Recorder :=
  (bs.foldl (fun v b => v.framed (armRefused b a)) s).recorder

/-- The frames rest on the recorder, the clock and the attention fields. -/
theorem armFrames_congr {s v : State} (a : Access) (bs : List SecId) (recorder : v.recorder = s.recorder)
    (ms : v.ms = s.ms) (store : v.store = s.store) : v.armFrames a bs = s.armFrames a bs := by
  unfold State.armFrames
  induction bs generalizing s v with
  | nil => exact recorder
  | cons b bs ih =>
    refine ih (s := s.framed (armRefused b a)) (v := v.framed (armRefused b a)) ?_ ms store
    unfold State.framed State.recorded State.attends
    rw [recorder, ms, store]

theorem slotUnmarked_of_noMarks {s : State} (noMarks : s.noMarks) : s.slotUnmarked := by
  unfold State.slotUnmarked State.waitingOn
  exact List.find?_eq_none.2 fun k _ => by simp [noMarks k]

theorem foldl_armOne_shape (a : Access) {bs : List SecId} (nodup : bs.Nodup) {s : State}
    (quiet : (∀ b ∈ bs, s.armRefuses b = false) ∨ s.noMarks) :
    ∃ D S, (∀ off ∈ s.dirty, off ∈ D) ∧
      (∀ b, S.get b = if b ∈ bs ∧ s.arms b = true then { s.section b with state := .armed } else s.section b) ∧
      bs.foldl (State.armOne a) s =
        { s with sections := S, recorder := s.armFrames a (bs.filter s.armRefuses), dirty := D } := by
  induction bs generalizing s with
  | nil => exact ⟨s.dirty, s.sections, fun _ mem => mem, fun b => by simp [State.section], rfl⟩
  | cons b bs ih =>
    obtain ⟨fresh, nodup⟩ := List.nodup_cons.1 nodup
    have apart : ∀ c ∈ bs, c ≠ b := fun c mem => ne_of_mem_of_not_mem mem fresh
    by_cases arms : s.arms b = true
    · obtain ⟨D₁, marked₁, armed⟩ := setSectionState_shape s b .armed
      have others : ∀ c, c ≠ b → (s.setSectionState b .armed).section c = s.section c := fun c ne => by
        rw [armed]
        exact Four.get_set_ne _ ne _
      have refuses : ∀ c ∈ bs, (s.setSectionState b .armed).armRefuses c = s.armRefuses c := fun c mem => by
        have same := others c (apart c mem)
        rw [armed] at same ⊢
        unfold State.armRefuses State.armable
        rw [same]
        rfl
      have ables : ∀ c ∈ bs, (s.setSectionState b .armed).arms c = s.arms c := fun c mem => by
        have same := others c (apart c mem)
        rw [armed] at same ⊢
        unfold State.arms State.armable
        rw [same]
        rfl
      obtain ⟨D, S, marked, sections, folded⟩ := ih nodup (s := s.setSectionState b .armed) <| by
        rcases quiet with none | noMarks
        · exact .inl fun c mem => (refuses c mem).trans (none c (List.mem_cons_of_mem _ mem))
        · rw [armed]
          exact .inr noMarks
      refine ⟨D, S, fun off mem => marked off ?_, fun c => ?_, ?_⟩
      · rw [armed]
        exact marked₁ off mem
      · rw [sections]
        by_cases own : c = b
        · subst own
          rw [if_neg fun both => fresh both.1, if_pos ⟨List.mem_cons_self, arms⟩, armed]
          exact Four.get_set_same _ _ _
        · rw [others c own]
          by_cases mem : c ∈ bs
          · simp [mem, ables c mem]
          · simp [mem, own]
      · have frames : (s.setSectionState b .armed).armFrames a (bs.filter s.armRefuses) =
            s.armFrames a (bs.filter s.armRefuses) := by
          rw [armed]
          exact armFrames_congr a _ rfl rfl rfl
        rw [List.foldl_cons, armOne_arms a arms, folded, List.filter_cons, armRefuses_of_arms arms,
          List.filter_congr refuses, frames, armed]
        rfl
    · have arms : s.arms b = false := Bool.eq_false_iff.2 arms
      have skip : ∀ c, (c ∈ b :: bs ∧ s.arms c = true) = (c ∈ bs ∧ s.arms c = true) := fun c => by
        by_cases own : c = b
        · subst own
          simp [arms]
        · simp [own]
      simp only [skip]
      cases refuses : s.armRefuses b with
      | false =>
        obtain ⟨D, S, marked, sections, folded⟩ := ih nodup
          (quiet.imp (fun none c mem => none c (List.mem_cons_of_mem _ mem)) id)
        refine ⟨D, S, marked, sections, ?_⟩
        rw [List.foldl_cons, armOne_same a arms refuses, folded, List.filter_cons, refuses]
        rfl
      | true =>
        have noMarks : s.noMarks := quiet.resolve_left fun none => by simp [none b List.mem_cons_self] at refuses
        have raised := raise_recorded s (armRefused b a) (slotUnmarked_of_noMarks noMarks)
        obtain ⟨D, S, marked, sections, folded⟩ := ih nodup (s := s.raise (armRefused b a))
          (.inr (by rw [raised]; exact noMarks))
        refine ⟨D, S, fun off mem => marked off ?_, fun c => ?_, ?_⟩
        · rw [raised]
          exact (mem_markList _ _ _).2 (.inl mem)
        · rw [sections, raised]
          rfl
        · rw [List.foldl_cons, armOne_refuses a refuses, folded, List.filter_cons, refuses]
          have frames : (s.raise (armRefused b a)).armFrames a (bs.filter (s.raise (armRefused b a)).armRefuses) =
              (s.framed (armRefused b a)).armFrames a (bs.filter s.armRefuses) := by
            rw [raised]
            exact armFrames_congr a _ rfl rfl rfl
          rw [frames, raised]
          rfl

/-! ## An ARM write (R92) -/

theorem exec_arm_granted {s t : State} {a : Access} (granted : s.grantsWrite .p a) (ht : s.granted .p = t)
    (hclass : t.classify a.addr = .control 0x101) :
    exec .arm s = .next (((t.storeWord a.addr 0).arm a).finish (t.storeWord a.addr 0)) := by
  show execArm s = _
  unfold execArm
  rw [grantWrite_granted granted ht, controlEvent_of hclass, Option.getD_some]

theorem nodup_namedSections (w : Word) : (namedSections w).Nodup := List.Pairwise.filter _ (by decide)

/-- An ARM write where no evaluation has anything to do. -/
theorem arm_shape {s : State} (a : Access)
    (nothing : s.armOpen = true → s.nothingToEvaluate)
    (quiet : (∀ b ∈ namedSections a.data, s.armRefuses b = false) ∨ s.noMarks) :
    ∃ D S, (∀ off ∈ s.dirty, off ∈ D) ∧
      (∀ b : SecId, S.get b =
        if a.data.getLsbD b.val = true ∧ s.arms b = true then { s.section b with state := .armed } else s.section b) ∧
      s.arm a = { s with
        sections := S, recorder := s.armFrames a ((namedSections a.data).filter s.armRefuses), dirty := D } := by
  obtain ⟨D, S, marked, sections, folded⟩ := foldl_armOne_shape a (nodup_namedSections a.data) quiet
  refine ⟨D, S, marked, fun b => ?_, ?_⟩
  · have named : b ∈ namedSections a.data ↔ a.data.getLsbD b.val = true := mem_namedSections a.data b
    simp only [sections, named]
  · unfold State.arm
    dsimp only
    rw [folded]
    cases armOpen : s.armOpen with
    | false =>
      rw [List.filter_eq_nil_iff.2 (by simp), evaluate_nil]
    | true =>
      rw [evaluate_nothing]
      exact nothing armOpen

theorem arms_iff (s : State) (b : SecId) : s.arms b = true ↔
    ((s.section b).state = .disarmed ∨ (s.section b).state = .held) ∧ s.guarding = true ∧ s.latch.isSet = false := by
  simp [State.arms, State.armable, State.armOpen]

theorem armRefuses_eq (s : State) (b : SecId) : s.armRefuses b =
    ((s.section b).state == .lockout ||
      (((s.section b).state == .disarmed || (s.section b).state == .held) && (s.latch.isSet || !s.guarding))) := by
  unfold State.armRefuses State.armable State.armOpen
  rw [Bool.not_and, Bool.not_not, Bool.or_comm (!s.guarding)]

theorem arm_of_refused {s : State} {a : Access} {b : SecId} (named : namedSections a.data = [b])
    (refuses : s.armRefuses b = true) : s.arm a = s.raise (armRefused b a) := by
  have made : [b].filter (fun b => s.armOpen && s.armable b) = [] := by
    refine List.filter_eq_nil_iff.2 fun c mem => ?_
    rw [List.mem_singleton.1 mem]
    intro both
    have arms : s.arms b = true := by rw [State.arms, Bool.and_comm]; exact both
    simp [armRefuses_of_arms arms] at refuses
  unfold State.arm
  dsimp only
  rw [named, made, evaluate_nil, List.foldl_cons, armOne_refuses a refuses, List.foldl_nil]

/-- Settles O29: ARM arms what it can of the sections it names, and frames what it refuses. -/
theorem armActsOnNamedSections : Obligations.ArmActsOnNamedSections := by
  refine ⟨fun s t a granted ht hclass guarding latch unlocked nothing steady => ?_,
    fun s t a b granted ht hclass named refused steady unmarked => ?_,
    fun s t a granted ht hclass nothing steady noMarks => ?_⟩
  · have passes : ∀ b ∈ namedSections a.data, (t.storeWord a.addr 0).armRefuses b = false := fun b mem => by
      have up := unlocked b ((mem_namedSections a.data b).1 mem)
      have armOpen : (t.storeWord a.addr 0).armOpen = true := by
        show (t.guarding && !t.latch.isSet) = true
        simp [guarding, latch]
      exact armRefuses_of_open up armOpen
    obtain ⟨D₁, S, marked₁, sections, armed⟩ := arm_shape (s := t.storeWord a.addr 0) a (fun _ => nothing) (.inl passes)
    rw [List.filter_eq_nil_iff.2 fun b mem => by rw [passes b mem]; exact Bool.false_ne_true] at armed
    rw [exec_arm_granted granted ht hclass, armed]
    obtain ⟨D, marked, ended⟩ := next_finish_steady (t := t.storeWord a.addr 0) (marks := t.dirty)
      (u := { t.storeWord a.addr 0 with sections := S, recorder := t.recorder, dirty := D₁ }) (steady.of rfl rfl) marked₁
    refine ⟨D, S, marked, fun b => ?_, ended⟩
    rw [sections]
    refine ite_of_iff ?_ _ _
    rw [arms_iff]
    exact ⟨fun ⟨named, state, _⟩ => ⟨named, state⟩, fun ⟨named, state⟩ => ⟨named, state, guarding, latch⟩⟩
  · have refuses : (t.storeWord a.addr 0).armRefuses b = true := by
      rw [armRefuses_eq]
      show ((t.section b).state == .lockout || (((t.section b).state == .disarmed || (t.section b).state == .held) &&
        (t.latch.isSet || !t.guarding))) = true
      simpa using refused
    have stored : (t.storeWord a.addr 0).slotUnmarked := unmarked.of rfl
    rw [exec_arm_granted granted ht hclass, arm_of_refused named refuses, raise_recorded _ _ stored]
    exact next_finish_steady (steady.of rfl rfl) fun off mem => (mem_markList _ _ _).2 (List.mem_append.1 mem)
  · have may : (t.storeWord a.addr 0).armOpen = true → (t.storeWord a.addr 0).nothingToEvaluate := fun armOpen => by
      have both : t.guarding = true ∧ t.latch.isSet = false := by
        have armOpen : (t.guarding && !t.latch.isSet) = true := armOpen
        simpa using armOpen
      exact nothing both.1 both.2
    obtain ⟨D₁, S, marked₁, sections, armed⟩ := arm_shape (s := t.storeWord a.addr 0) a may (.inr noMarks)
    have refusals : (namedSections a.data).filter (t.storeWord a.addr 0).armRefuses = allFours.filter fun b =>
        a.data.getLsbD b.val && ((t.section b).state == .lockout ||
          (((t.section b).state == .disarmed || (t.section b).state == .held) && (t.latch.isSet || !t.guarding))) := by
      unfold namedSections
      rw [List.filter_filter]
      refine List.filter_congr fun b _ => ?_
      rw [armRefuses_eq, Bool.and_comm]
      rfl
    have frames : (t.storeWord a.addr 0).armFrames a ((namedSections a.data).filter (t.storeWord a.addr 0).armRefuses) =
        t.armFrames a ((namedSections a.data).filter (t.storeWord a.addr 0).armRefuses) :=
      armFrames_congr a _ rfl rfl rfl
    rw [frames, refusals] at armed
    rw [exec_arm_granted granted ht hclass, armed]
    obtain ⟨D, marked, ended⟩ := next_finish_steady (t := t.storeWord a.addr 0) (marks := t.dirty)
      (u := { t.storeWord a.addr 0 with
        sections := S
        recorder := t.armFrames a (allFours.filter fun b =>
          a.data.getLsbD b.val && ((t.section b).state == .lockout ||
            (((t.section b).state == .disarmed || (t.section b).state == .held) && (t.latch.isSet || !t.guarding))))
        dirty := D₁ }) (steady.of rfl rfl) marked₁
    refine ⟨D, S, marked, fun b => ?_, ended⟩
    rw [sections]
    refine ite_of_iff ?_ _ _
    rw [arms_iff]
    exact Iff.rfl

end Sys2Proof.Machine
end

section
/-! PROOFS. DISARM where no transfer stands in its way (R93), and the manual requests (R95). -/

namespace Sys2Proof.Machine

/-! ## A DISARM write (R93) -/

theorem exec_disarm_granted {s t : State} {a : Access} (granted : s.grantsWrite .p a) (ht : s.granted .p = t)
    (hclass : t.classify a.addr = .control 0x102) :
    exec .disarm s = .next (((t.storeWord a.addr 0).disarm a.data).finish (t.storeWord a.addr 0)) := by
  show execDisarm s = _
  unfold execDisarm
  rw [grantWrite_granted granted ht, controlEvent_of hclass, Option.getD_some]

/-- The record of a section that DISARM names while no request or transfer holds it. -/
def Section.disarmed (x : Section) : Section :=
  if x.state = .armed ∨ x.state = .held then { x with state := .disarmed } else x

theorem disarmOne_shape (w : Word) {s : State} {b : SecId} (queued : (s.section b).state ≠ .queued)
    (transferring : (s.section b).state ≠ .transferring) :
    ∃ D, (∀ off ∈ s.dirty, off ∈ D) ∧
      State.disarmOne w s b = { s with sections := s.sections.set b (s.section b).disarmed, dirty := D } := by
  have same : ∃ D, (∀ off ∈ s.dirty, off ∈ D) ∧ s = { s with sections := s.sections.set b (s.section b), dirty := D } :=
    ⟨s.dirty, fun _ mem => mem, by
      show s = { s with sections := s.sections.set b (s.sections.get b) }
      rw [Four.set_get]⟩
  unfold State.disarmOne Section.disarmed
  cases state : (s.section b).state with
  | queued => exact absurd state queued
  | transferring => exact absurd state transferring
  | armed => exact setSectionState_shape s b .disarmed
  | held => exact setSectionState_shape s b .disarmed
  | disarmed =>
    rw [if_neg (by simp)]
    exact same
  | lockout =>
    rw [if_neg (by simp)]
    exact same

theorem foldl_disarmOne_shape (w : Word) {bs : List SecId} (nodup : bs.Nodup) {s : State}
    (apart : ∀ b ∈ bs, (s.section b).state ≠ .queued ∧ (s.section b).state ≠ .transferring) :
    ∃ D S, (∀ off ∈ s.dirty, off ∈ D) ∧
      (∀ b, S.get b = if b ∈ bs then (s.section b).disarmed else s.section b) ∧
      bs.foldl (State.disarmOne w) s = { s with sections := S, dirty := D } := by
  induction bs generalizing s with
  | nil => exact ⟨s.dirty, s.sections, fun _ mem => mem, fun b => by simp [State.section], rfl⟩
  | cons b bs ih =>
    obtain ⟨fresh, nodup⟩ := List.nodup_cons.1 nodup
    obtain ⟨queued, transferring⟩ := apart b List.mem_cons_self
    obtain ⟨D₁, marked₁, first⟩ := disarmOne_shape w queued transferring
    have others : ∀ c, (State.disarmOne w s b).section c = if c = b then (s.section b).disarmed else s.section c := by
      intro c
      rw [first]
      exact Four.get_set _ _ _ _
    obtain ⟨D, S, marked, sections, folded⟩ := ih nodup (s := State.disarmOne w s b) fun c mem => by
      rw [others, if_neg (ne_of_mem_of_not_mem mem fresh)]
      exact apart c (List.mem_cons_of_mem _ mem)
    refine ⟨D, S, fun off mem => marked off ?_, fun c => ?_, ?_⟩
    · rw [first]
      exact marked₁ off mem
    · rw [sections, others]
      by_cases own : c = b
      · subst own
        simp [fresh]
      · simp [own]
    · rw [List.foldl_cons, folded, first]

theorem disarm_guarding {s : State} (w : Word) (guarding : s.guarding = true) :
    s.disarm w = ((namedSections w).foldl (State.disarmOne w) s).evaluate assign none
      (allFours.filter fun b =>
        (s.section b).state == .queued && (((namedSections w).foldl (State.disarmOne w) s).section b).state == .armed) := by
  unfold State.disarm
  rw [if_pos guarding]

theorem Section.disarmed_state_of_queued {x : Section} (queued : x.state = .queued) : x.disarmed = x := by
  unfold Section.disarmed
  rw [if_neg (by simp [queued])]

/-- A DISARM write that names no section which a request or a transfer holds. -/
theorem disarm_shape {s : State} (w : Word) (guarding : s.guarding = true)
    (apart : ∀ b ∈ namedSections w, (s.section b).state ≠ .queued ∧ (s.section b).state ≠ .transferring) :
    ∃ D S, (∀ off ∈ s.dirty, off ∈ D) ∧
      (∀ b : SecId, S.get b = if w.getLsbD b.val = true then (s.section b).disarmed else s.section b) ∧
      s.disarm w = { s with sections := S, dirty := D } := by
  obtain ⟨D, S, marked, sections, folded⟩ := foldl_disarmOne_shape w (nodup_namedSections w) apart
  refine ⟨D, S, marked, fun b => ?_, ?_⟩
  · have named : b ∈ namedSections w ↔ w.getLsbD b.val = true := mem_namedSections w b
    simp only [sections, named]
  · have left : (allFours.filter fun b => (s.section b).state == .queued && (S.get b).state == .armed) = [] := by
      refine List.filter_eq_nil_iff.2 fun b _ => ?_
      rw [Bool.and_eq_true, beq_iff_eq, beq_iff_eq]
      rintro ⟨queued, armed⟩
      rw [sections, Section.disarmed_state_of_queued queued, ite_self, queued] at armed
      cases armed
    rw [disarm_guarding w guarding, folded]
    show State.evaluate assign none (allFours.filter fun b =>
      (s.section b).state == .queued && (S.get b).state == .armed) { s with sections := S, dirty := D } = _
    rw [left, evaluate_nil]

/-- A DISARM write that names one queued section: its request leaves, and the section is DISARMED. -/
theorem disarm_queued {s : State} {w : Word} {b : SecId} {e : Request} (guarding : s.guarding = true)
    (named : namedSections w = [b]) (queued : (s.section b).state = .queued) (request : s.requestOf b = some e)
    (nothing : s.nothingToEvaluate) :
    ∃ D S, (∀ off ∈ s.dirty, off ∈ D) ∧
      (∀ c : SecId, S.get c =
        if c = b then { s.section c with state := .disarmed }
        else if e.set.get c = true then { s.section c with state := .armed }
        else s.section c) ∧
      s.disarm w = { s with sections := S, queue := s.queue.filter (· != e), dirty := D } := by
  obtain ⟨D₁, S₁, marked₁, sections₁, withdrawn⟩ := withdraw_shape s e .armed
  obtain ⟨D, marked, last⟩ := setSectionState_shape
    { s with sections := S₁, queue := s.queue.filter (· != e), dirty := D₁ } b .disarmed
  have one : State.disarmOne w s b =
      { s with
        sections := S₁.set b { S₁.get b with state := .disarmed }, queue := s.queue.filter (· != e), dirty := D } := by
    unfold State.disarmOne
    rw [queued]
    dsimp only
    rw [request]
    dsimp only
    rw [withdrawn, last]
    rfl
  refine ⟨D, S₁.set b { S₁.get b with state := .disarmed }, fun off mem => marked off (marked₁ off mem), fun c => ?_, ?_⟩
  · rw [Four.get_set]
    by_cases own : c = b
    · subst own
      rw [if_pos rfl, if_pos rfl, sections₁]
      split <;> rfl
    · rw [if_neg own, if_neg own, sections₁]
  · rw [disarm_guarding w guarding, named, List.foldl_cons, List.foldl_nil, one, evaluate_nothing]
    exact nothing

theorem ite_ite_of_and {α : Type} {p q : Prop} [Decidable p] [Decidable q] (x y : α) :
    (if p then if q then x else y else y) = if p ∧ q then x else y := by
  by_cases outer : p
  · rw [if_pos outer]
    exact ite_congr (propext ⟨fun inner => ⟨outer, inner⟩, And.right⟩) (fun _ => rfl) fun _ => rfl
  · rw [if_neg outer, if_neg fun both => outer both.1]

/-- Settles O30: DISARM of sections that are ARMED, HELD or QUEUED; while UNCONFIGURED it is ignored. -/
theorem disarmActsOnNamedSections : Obligations.DisarmActsOnNamedSections := by
  refine ⟨fun s t a granted ht hclass guarding apart steady => ?_,
    fun s t a b e granted ht hclass guarding named queued request nothing steady => ?_,
    fun s t a granted ht hclass unconfigured steady => ?_⟩
  · obtain ⟨D₁, S, marked₁, sections, disarmed⟩ := disarm_shape (s := t.storeWord a.addr 0) a.data guarding
      fun b mem => apart b ((mem_namedSections a.data b).1 mem)
    rw [exec_disarm_granted granted ht hclass, disarmed]
    obtain ⟨D, marked, ended⟩ := next_finish_steady (t := t.storeWord a.addr 0) (marks := t.dirty)
      (u := { t.storeWord a.addr 0 with sections := S, dirty := D₁ }) (steady.of rfl rfl) marked₁
    refine ⟨D, S, marked, fun b => (sections b).trans ?_, ended⟩
    unfold Section.disarmed
    rw [ite_ite_of_and]
    rfl
  · obtain ⟨D₁, S, marked₁, sections, disarmed⟩ := disarm_queued (s := t.storeWord a.addr 0) guarding named queued request
      nothing
    rw [exec_disarm_granted granted ht hclass, disarmed]
    obtain ⟨D, marked, ended⟩ := next_finish_steady (t := t.storeWord a.addr 0) (marks := t.dirty)
      (u := { t.storeWord a.addr 0 with sections := S, queue := t.queue.filter (· != e), dirty := D₁ })
      (steady.of rfl rfl) marked₁
    exact ⟨D, S, marked, sections, ended⟩
  · have stored : (t.storeWord a.addr 0).steady := steady.of rfl rfl
    have ignored : (t.storeWord a.addr 0).disarm a.data = t.storeWord a.addr 0 := if_neg (by
      show ¬t.guarding = true
      simp [unconfigured])
    rw [exec_disarm_granted granted ht hclass, ignored, finish_steady _ _ stored, markChanged_self]
    rfl

/-! ## A manual request (R95) -/

theorem manualSection_of (b : SecId) : manualSection (0x104 + b.val) = some b := indexAt_add b

theorem exec_manualRequest_granted {s t : State} {a : Access} {b : SecId} (granted : s.grantsWrite .p a)
    (ht : s.granted .p = t) (hclass : t.classify a.addr = .control (0x104 + b.val)) :
    exec .manualRequest s = .next (((t.storeWord a.addr 0).manual b a).finish t) := by
  show execManualRequest s = _
  unfold execManualRequest
  rw [grantWrite_granted granted ht, hclass]
  dsimp only
  rw [manualSection_of, Option.getD_some]

theorem manual_without_go {s : State} {b : SecId} {a : Access} (go : a.data.getLsbD 0 = false) : s.manual b a = s :=
  if_neg (by rw [flag, go]; exact Bool.false_ne_true)

theorem manual_refused {s : State} {b : SecId} {a : Access} (go : a.data.getLsbD 0 = true)
    (refused : s.manualRefused b a.data = true) : s.manual b a = s.raise (requestRefused b a.addr a.data) := by
  unfold State.manual
  rw [if_pos (show flag a.data 0 = true from go), if_pos refused]

theorem manual_accepted {s : State} {b : SecId} {a : Access} (go : a.data.getLsbD 0 = true)
    (accepted : s.manualRefused b a.data = false) : s.manual b a = s.placeManual assign (s.manualEntry b a.data) := by
  unfold State.manual
  rw [if_pos (show flag a.data 0 = true from go), if_neg (by simp [accepted])]

/-- Nothing is taken while a copy waits, the latch is set or no context is FREE (R101). -/
theorem assign_closed {s : State} (closed : s.takingClosed) : assign s = s := by
  show assignN (31 + 1) s = s
  unfold assignN
  split
  · rfl
  · split
    · next takingOpen nextFree =>
      rcases closed with shut | none
      · rw [shut] at takingOpen
        cases takingOpen
      · rw [none] at nextFree
        cases nextFree
    · rfl

/-- A request that joins the queue at its tail, its sections QUEUED. -/
theorem joined_shape (s : State) (e : Request) :
    ∃ D S, (∀ off ∈ s.dirty, off ∈ D) ∧
      (∀ c, S.get c = if e.set.get c = true then { s.section c with state := .queued } else s.section c) ∧
      (s.setQueue (s.queue ++ [e])).queueSections e =
        { s with sections := S, queue := s.queue ++ [e], dirty := D } := by
  obtain ⟨D₁, marked₁, joined⟩ := setQueue_shape s (s.queue ++ [e])
  rw [joined]
  obtain ⟨S, D, marked, sections, moved⟩ := setSectionStates_shape { s with queue := s.queue ++ [e], dirty := D₁ }
    (FourSet.toList e.set) .queued
  refine ⟨D, S, fun off mem => marked off (marked₁ off mem), fun c => ?_, moved⟩
  rw [sections]
  simp only [FourSet.mem_toList]
  rfl

theorem placeManual_closed {s : State} (e : Request) (closed : s.takingClosed) :
    ∃ D S, (∀ off ∈ s.dirty, off ∈ D) ∧
      (∀ c, S.get c = if e.set.get c = true then { s.section c with state := .queued } else s.section c) ∧
      s.placeManual assign e = { s with sections := S, queue := s.queue ++ [e], dirty := D } := by
  obtain ⟨D, S, marked, sections, joined⟩ := joined_shape s e
  refine ⟨D, S, marked, sections, ?_⟩
  unfold State.placeManual
  rw [joined, assign_closed]
  exact closed

theorem manualTransition_eq (w : Word) : manualTransition w = if w.getLsbD 1 = true then .closed else .opn := rfl

/-- Settles O35: a manual request without GO, refused, or joined to the queue. -/
theorem manualRequestIsRefusedOrQueued : Obligations.ManualRequestIsRefusedOrQueued := by
  refine ⟨fun s t a b granted ht hclass go steady => ?_, fun s t a b granted ht hclass go refused steady unmarked => ?_,
    fun s t a b granted ht hclass go accepted closed steady => ?_⟩
  · have stored : (t.storeWord a.addr 0).steady := steady.of rfl rfl
    have same : (t.storeWord a.addr 0).markChanged t = t.storeWord a.addr 0 := markChanged_self (t.storeWord a.addr 0)
    rw [exec_manualRequest_granted granted ht hclass, manual_without_go go, finish_steady _ _ stored, same]
    rfl
  · have stored : (t.storeWord a.addr 0).slotUnmarked := unmarked.of rfl
    rw [exec_manualRequest_granted granted ht hclass, manual_refused (s := t.storeWord a.addr 0) go refused, raise_recorded _ _ stored]
    exact next_finish steady (fun off mem => (mem_markList _ _ _).2 (List.mem_append.1 mem)) rfl rfl
  · obtain ⟨D₁, S, marked₁, sections, placed⟩ := placeManual_closed (s := t.storeWord a.addr 0)
      ((t.storeWord a.addr 0).manualEntry b a.data) closed
    rw [exec_manualRequest_granted granted ht hclass, manual_accepted (s := t.storeWord a.addr 0) go accepted, placed]
    obtain ⟨D, marked, ended⟩ := next_finish (t := t) (marks := t.dirty)
      (u := { t.storeWord a.addr 0 with
        sections := S, queue := t.queue ++ [t.manualEntry b a.data], dirty := D₁ }) steady marked₁ rfl rfl
    exact ⟨D, S, marked, sections, ended⟩

/-! ## The grounds of a refusal (R95) -/

theorem routeOf_eq_none {n : Nat} (lt : n < 16) : routeOf n = none ↔ n = 0 ∨ 6 < n := by
  revert n
  decide

theorem fedAvailable_eq_some {s : State} {x : FourSet} {f : SrcId} :
    s.fedAvailable x = some f ↔ s.setSupply x = .fed f ∧ (s.source f).state = .available := by
  unfold State.fedAvailable State.isAvailable
  cases s.setSupply x with
  | unfed => simp
  | parallel => simp
  | fed g =>
    dsimp only
    by_cases available : ((s.source g).state == .available) = true
    · rw [if_pos available]
      constructor
      · intro same
        cases same
        exact ⟨rfl, beq_iff_eq.1 available⟩
      · rintro ⟨same, _⟩
        cases same
        rfl
    · rw [if_neg available]
      constructor
      · intro same
        cases same
      · rintro ⟨same, is⟩
        cases same
        exact absurd (beq_iff_eq.2 is) available

theorem anyLocked_iff (s : State) (x : FourSet) :
    s.anyLocked x = true ↔ ∃ c, x.get c = true ∧ s.isLocked c = true := by
  simp [State.anyLocked, FourSet.mem_toList]

/-- The route of a manual request will not do. -/
theorem manualRouteBad_iff (s : State) (x : FourSet) (r : Route) :
    s.manualRouteBad x (some r) = true ↔
      s.routeDeviceFor x r = none ∨
        (∃ d, s.routeDeviceFor x r = some d ∧
          (s.connects d x = false ∨ (s.device d).owner ≠ .processor ∨ s.usableDevice d = false ∨
            s.countedClosed d = true)) ∨
        s.routeSource x r = none ∨ ∃ n, s.routeSource x r = some n ∧ (s.source n).state ≠ .available := by
  unfold State.manualRouteBad State.isAvailable
  dsimp only
  cases s.routeDeviceFor x r with
  | none => simp
  | some d =>
    cases s.routeSource x r with
    | none => simp
    | some n => simp [or_assoc]

/-- The CLOSED transition of a manual request will not do. -/
theorem manualClosedBad_iff (s : State) (x : FourSet) (r : Route) :
    s.manualClosedBad x (some r) = true ↔
      (∀ n, r ≠ .source n) ∨ ∀ f, s.setSupply x = .fed f → (s.source f).state ≠ .available ∨ r = .source f := by
  unfold State.manualClosedBad
  cases r with
  | tieLeft => simp
  | tieRight => simp
  | source n =>
    dsimp only
    cases fed : s.fedAvailable x with
    | none =>
      refine iff_of_true rfl (.inr fun f supply => .inl fun available => ?_)
      rw [fedAvailable_eq_some.2 ⟨supply, available⟩] at fed
      cases fed
    | some g =>
      obtain ⟨supply, available⟩ := fedAvailable_eq_some.1 fed
      rw [supply]
      constructor
      · intro same
        refine .inr fun f is => .inr ?_
        cases is
        rw [beq_iff_eq.1 same]
      · rintro (other | grounds)
        · exact absurd rfl (other n)
        · rcases grounds g rfl with down | same
          · exact absurd available down
          · cases same
            exact beq_self_eq_true n

theorem manualTransition_closed (w : Word) : (manualTransition w == .closed) = w.getLsbD 1 := by
  unfold manualTransition flag
  cases w.getLsbD 1 <;> rfl

/-- Settles O36: the grounds of a refusal, one by one. -/
theorem manualRequestGrounds : Obligations.ManualRequestGrounds := by
  intro s b w x set
  have sections : (FourSet.toList x).any (fun c => (s.section c).state != .armed) = true ↔
      ∃ c, x.get c = true ∧ (s.section c).state ≠ .armed := by simp [FourSet.mem_toList]
  have grounds : s.manualRefused b w = true ↔
      s.guarding = false ∨ s.latch.isSet = true ∨ s.anyLocked x = true ∨
        s.manualRouteBad x (manualRoute w) = true ∨
        (w.getLsbD 1 = true ∧ s.manualClosedBad x (manualRoute w) = true) ∨
        ∃ c, x.get c = true ∧ (s.section c).state ≠ .armed := by
    unfold State.manualRefused State.manualBad
    rw [set, manualTransition_closed, Bool.or_eq_true, sections]
    simp only [Bool.or_eq_true, Bool.and_eq_true, Bool.not_eq_true', or_assoc]
  rw [grounds, anyLocked_iff]
  unfold manualRoute
  cases route : routeOf (field w 4 4) with
  | none =>
    have code := (routeOf_eq_none (field_lt w 4 4)).1 route
    exact iff_of_true (.inr (.inr (.inr (.inl rfl))))
      (.inr (.inr (.inr (code.elim .inl fun large => .inr (.inl large)))))
  | some r =>
    have code : ¬(field w 4 4 = 0 ∨ 6 < field w 4 4) := fun code => by
      rw [(routeOf_eq_none (field_lt w 4 4)).2 code] at route
      cases route
    obtain ⟨zero, large⟩ := not_or.1 code
    rw [manualRouteBad_iff, manualClosedBad_iff]
    constructor
    · rintro (unconfigured | isSet | ⟨c, mem, locked⟩ | bad | closed | ⟨c, mem, state⟩)
      · exact .inl unconfigured
      · exact .inr (.inl isSet)
      · exact .inr (.inr (.inl ⟨c, mem, .inr locked⟩))
      · refine .inr (.inr (.inr (.inr (.inr ⟨r, rfl, ?_⟩))))
        rcases bad with device | unfit | source | unavailable
        · exact .inl device
        · exact .inr (.inl unfit)
        · exact .inr (.inr (.inl source))
        · exact .inr (.inr (.inr (.inl unavailable)))
      · exact .inr (.inr (.inr (.inr (.inr ⟨r, rfl, .inr (.inr (.inr (.inr closed)))⟩))))
      · exact .inr (.inr (.inl ⟨c, mem, .inl state⟩))
    · rintro (unconfigured | isSet | ⟨c, mem, state | locked⟩ | none | above | ⟨r', same, bad⟩)
      · exact .inl unconfigured
      · exact .inr (.inl isSet)
      · exact .inr (.inr (.inr (.inr (.inr ⟨c, mem, state⟩))))
      · exact .inr (.inr (.inl ⟨c, mem, locked⟩))
      · exact absurd none zero
      · exact absurd above large
      · cases same
        rcases bad with device | unfit | source | unavailable | closed
        · exact .inr (.inr (.inr (.inl (.inl device))))
        · exact .inr (.inr (.inr (.inl (.inr (.inl unfit)))))
        · exact .inr (.inr (.inr (.inl (.inr (.inr (.inl source))))))
        · exact .inr (.inr (.inr (.inl (.inr (.inr (.inr unavailable))))))
        · exact .inr (.inr (.inr (.inr (.inl closed))))

end Sys2Proof.Machine
end

section
/-! PROOFS. The dead-bus expiry and the restore stagger (R117, R118, R121, R122). First what the questions that the Transfer
Engine asks of the board rest on: the working copy, the device records, the states of sources and sections, and the set of
the context. -/

namespace Sys2Proof.Machine

/-! ## What the board's answers rest on (R5 to R12, R110) -/

section
variable {s u : State} (store : u.store = s.store) (devices : u.devices = s.devices)
include store devices

theorem owns_congr (k : CtxId) (d : DevId) : u.owns k d = s.owns k d := by
  cases s; cases u; cases store; cases devices; rfl

theorem closed_congr (d : DevId) : u.countedClosed d = s.countedClosed d := by
  cases s; cases u; cases store; cases devices; rfl

theorem usableDevice_congr (d : DevId) : u.usableDevice d = s.usableDevice d := by
  cases s; cases u; cases store; cases devices; rfl

theorem supplyOf_congr (x : FourSet) : u.supplyOf x = s.supplyOf x := by
  cases s; cases u; cases store; cases devices; rfl

theorem setSupply_congr (x : FourSet) : u.setSupply x = s.setSupply x := by
  cases s; cases u; cases store; cases devices; rfl

theorem island_congr (b : SecId) : u.island b = s.island b := by
  cases s; cases u; cases store; cases devices; rfl

theorem neighbour_congr (x : FourSet) (r : Route) : u.neighbour x r = s.neighbour x r := by
  cases s; cases u; cases store; cases devices; rfl

theorem fits_congr (n : SrcId) (load : Nat) : u.fits n load = s.fits n load := by
  cases s; cases u; cases store; cases devices; rfl

theorem shedLoad_congr (x : FourSet) : u.shedLoad x = s.shedLoad x := by
  cases s; cases u; cases store; cases devices; rfl

theorem setLoad_congr (x : FourSet) : u.setLoad x = s.setLoad x := by
  cases s; cases u; cases store; cases devices; rfl

theorem dead_congr (x : FourSet) : u.dead x = s.dead x := by
  cases s; cases u; cases store; cases devices; rfl

theorem incomerClosed_congr (n : SrcId) : u.incomerClosed n = s.incomerClosed n := by
  cases s; cases u; cases store; cases devices; rfl

theorem fedAvailable_congr (states : ∀ n, (u.source n).state = (s.source n).state) (x : FourSet) :
    u.fedAvailable x = s.fedAvailable x := by
  unfold State.fedAvailable State.isAvailable
  rw [setSupply_congr store devices]
  simp only [states]

theorem usableFor_congr {k : CtxId} (states : ∀ n, (u.source n).state = (s.source n).state)
    (sections : ∀ b, (u.section b).state = (s.section b).state) (set : (u.context k).set = (s.context k).set)
    (ignoreState : Bool) (load : Nat) (r : Route) : u.usableFor k ignoreState load r = s.usableFor k ignoreState load r := by
  have device : u.routeDeviceFor (s.context k).set r = s.routeDeviceFor (s.context k).set r := by
    cases s; cases u; cases store; rfl
  unfold State.usableFor State.isAvailable
  dsimp only
  rw [set, device, neighbour_congr store devices]
  simp only [owns_congr store devices, usableDevice_congr store devices, closed_congr store devices,
    fits_congr store devices, fedAvailable_congr store devices states, states, sections]

end

/-! ## One context's record -/

theorem context_updContext (s : State) (k : CtxId) (f : Context → Context) :
    (s.updContext k f).context k = f (s.context k) := Three.get_set_same _ _ _

theorem updContext_updContext (s : State) (k : CtxId) (f g : Context → Context) :
    (s.updContext k f).updContext k g = s.updContext k fun c => g (f c) := by
  show (s.updContext k f).setContext k (g ((s.updContext k f).context k)) = _
  rw [context_updContext]
  unfold State.updContext State.setContext
  rw [Three.set_set]

theorem steadyBut_setContext {t u : State} {k : CtxId} {c : Context} (steady : t.steadyBut k)
    (contexts : u.contexts = t.contexts.set k c) (freed : u.freed = t.freed) (unwatched : c.unwatched) : u.steady := by
  obtain ⟨settled, others⟩ := steady
  refine ⟨by rw [State.settled, freed]; exact settled, fun j => ?_⟩
  unfold State.context
  rw [contexts, Three.get_set]
  split
  · exact unwatched
  · next ne => exact others j ne

theorem timerDue_of {s : State} {k : CtxId} {t : TimerKind} (active : s.active k = true)
    (timer : (s.context k).timer = some (t, s.ms)) : s.timerDue k t = true := by
  simp [State.timerDue, active, timer]

/-! ## The dead-bus delay (R117, R118) -/

theorem exec_deadBusExpiry_due {s : State} {k : CtxId} (active : s.active k = true)
    (timer : (s.context k).timer = some (.deadBus, s.ms)) (phase : (s.context k).phase = .deadWait) :
    exec (.deadBusExpiry k) s = .next ((enterClosing assign k (s.stopTimer k)).finish s) := by
  show execDeadBusExpiry k s = _
  unfold execDeadBusExpiry
  rw [timerDue_of active timer, phase]
  rfl

/-- A context once it has entered CLOSING (R118). -/
def Context.closing (c : Context) : Context := { c with phase := .closing, timer := none, closeInMemory := false }

theorem recheckLoad_closing (s : State) (c : Context) : s.recheckLoad c.closing = s.recheckLoad c := rfl

theorem enterClosing_usable {s : State} {k : CtxId} {r : Route} (asg : State → State)
    (target : (s.context k).target = some r)
    (usable : s.usableFor k false (s.recheckLoad (s.context k)) r = true) :
    enterClosing asg k s =
      (s.updContext k Context.closing).command k .cls (s.context k).routeDevice := by
  have same : (s.updContext k Context.closing).context k = (s.context k).closing := context_updContext _ _ _
  have load : (s.updContext k Context.closing).recheckLoad (s.context k).closing = s.recheckLoad (s.context k) := rfl
  have still : (s.updContext k Context.closing).usableFor k false (s.recheckLoad (s.context k)) r = true :=
    (usableFor_congr (s := s) (u := s.updContext k Context.closing) rfl rfl (fun _ => rfl) (fun _ => rfl)
      (by rw [same]; rfl) _ _ _).trans usable
  show (match ((s.updContext k Context.closing).context k).target with
    | some r =>
      if (s.updContext k Context.closing).usableFor k false
          ((s.updContext k Context.closing).recheckLoad ((s.updContext k Context.closing).context k)) r then
        (s.updContext k Context.closing).command k .cls ((s.updContext k Context.closing).context k).routeDevice
      else rerouteTarget asg k (s.updContext k Context.closing)
    | none => rerouteTarget asg k (s.updContext k Context.closing)) = _
  rw [same, load, show (s.context k).closing.target = some r from target]
  exact if_pos still

/-- Settles O50: the dead-bus delay over, the CLOSE of the route device is queued. -/
theorem deadBusExpiryClosesTheRoute : Obligations.DeadBusExpiryClosesTheRoute := by
  intro s k r d active phase timer target usable route own settled others
  have stopped : (s.stopTimer k).context k = { s.context k with timer := none } := context_updContext _ _ _
  have still : (s.stopTimer k).usableFor k false ((s.stopTimer k).recheckLoad ((s.stopTimer k).context k)) r = true := by
    rw [stopped]
    exact (usableFor_congr (s := s) (u := s.stopTimer k) rfl rfl (fun _ => rfl) (fun _ => rfl) (by rw [stopped])
      _ _ _).trans usable
  have twice : (s.stopTimer k).updContext k Context.closing = s.updContext k Context.closing :=
    updContext_updContext _ _ _ _
  have enters : enterClosing assign k (s.stopTimer k) = (s.updContext k Context.closing).command k .cls (some d) := by
    rw [enterClosing_usable assign (s := s.stopTimer k) (by rw [stopped]; exact target) still, stopped, twice]
    dsimp only
    rw [route]
  obtain ⟨D₁, marked₁, queued⟩ := command_shape (s := s.updContext k Context.closing) .cls own
  rw [exec_deadBusExpiry_due active timer phase, enters, queued]
  refine next_finish_steady ?_ marked₁
  exact steadyBut_setContext (c := (s.context k).closing) ⟨settled, others⟩ rfl rfl fun both => by cases both.2

/-! ## The restore stagger (R121, R122) -/

theorem exec_restoreStaggerExpiry_due {s : State} {k : CtxId} (active : s.active k = true)
    (timer : (s.context k).timer = some (.stagger, s.ms)) :
    exec (.restoreStaggerExpiry k) s =
      .next ((if (s.context k).phase = .restoring then restoreNext assign k (s.stopTimer k)
        else s.stopTimer k).finish s) := by
  show execRestoreStaggerExpiry k s = _
  unfold execRestoreStaggerExpiry
  rw [timerDue_of active timer]
  rfl

theorem restoreNext_outstanding {s : State} {k : CtxId} (asg : State → State)
    (outstanding : (s.context k).restoring ≠ none) : restoreNext asg k s = s := by
  unfold restoreNext
  exact if_pos (Option.isSome_iff_ne_none.2 outstanding)

/-- With no feeder outstanding and the stagger stopped, the list is walked from the cursor on. -/
theorem restoreNext_walks {s : State} {k : CtxId} {d : DevId} {ds : List DevId} (asg : State → State)
    (none_ : (s.context k).restoring = none) (timer : (s.context k).timer = none)
    (rest : (s.context k).restoreList.drop (s.context k).cursor = d :: ds) :
    restoreNext asg k s = restoreWalk asg k (d :: ds) s := by
  have within : ¬(s.context k).restoreList.length ≤ (s.context k).cursor := fun past => by
    rw [List.drop_eq_nil_of_le past] at rest
    cases rest
  unfold restoreNext
  dsimp only
  rw [none_, if_neg (by simp), if_neg within, timer, if_neg (by simp), rest]

theorem passedOver_eq (s : State) (k : CtxId) (d : DevId) :
    (!s.owns k d || (s.device d).observed == .closed || !s.usableDevice d) = s.passedOver k d := rfl

/-- The walk takes a feeder that is not passed over and fits (R121). -/
theorem restoreWalk_takes {s : State} {k : CtxId} {d : DevId} {ds : List DevId} (asg : State → State)
    (taken : s.passedOver k d = false) (fits : s.feederFits k d = true) :
    restoreWalk asg k (d :: ds) s =
      (s.enqueue d .cls (.context k)).updContext k fun c => { c with restoring := some d, sent := DevSet.none } := by
  unfold restoreWalk
  rw [passedOver_eq, taken, if_neg (by simp), fits]
  exact if_neg (by simp)

theorem feederFits_congr {s u : State} {k : CtxId} (store : u.store = s.store) (devices : u.devices = s.devices)
    (set : (u.context k).set = (s.context k).set) (d : DevId) : u.feederFits k d = s.feederFits k d := by
  have entry : u.entry d = s.entry d := by simp only [State.entry, State.board, store]
  unfold State.feederFits
  rw [set, setSupply_congr store devices, entry]
  simp only [fits_congr store devices]

theorem passedOver_congr {s u : State} {k : CtxId} (store : u.store = s.store) (devices : u.devices = s.devices)
    (d : DevId) : u.passedOver k d = s.passedOver k d := by
  unfold State.passedOver State.device
  rw [owns_congr store devices, devices, usableDevice_congr store devices]

/-- Settles O52: the stagger over, the next feeder is commanded where one waits. -/
theorem staggerExpiryTakesTheNextFeeder : Obligations.StaggerExpiryTakesTheNextFeeder := by
  refine ⟨fun s k active timer quiet steady => ?_,
    fun s k d ds active timer phase none_ rest own open_ usable fits steady => ?_⟩
  · have stops : (if (s.context k).phase = .restoring then restoreNext assign k (s.stopTimer k) else s.stopTimer k) =
        s.stopTimer k := by
      split
      · next restoring =>
        refine restoreNext_outstanding assign ?_
        rw [State.stopTimer, context_updContext]
        exact quiet.resolve_left fun other => other restoring
      · rfl
    rw [exec_restoreStaggerExpiry_due active timer, stops]
    exact next_finish_steady (u := s.stopTimer k) (steady_setContext steady rfl rfl (unwatched_of_steady steady k))
      fun _ mem => mem
  · have stopped : (s.stopTimer k).context k = { s.context k with timer := none } := context_updContext _ _ _
    have walks := restoreNext_walks assign (s := s.stopTimer k) (by rw [stopped]; exact none_) (by rw [stopped])
      (by rw [stopped]; exact rest)
    have taken : (s.stopTimer k).passedOver k d = false := by
      refine (passedOver_congr (s := s) (u := s.stopTimer k) rfl rfl d).trans ?_
      simp [State.passedOver, own, open_, usable]
    have fit : (s.stopTimer k).feederFits k d = true :=
      (feederFits_congr (s := s) (u := s.stopTimer k) rfl rfl (by rw [stopped]) d).trans fits
    obtain ⟨D₁, marked₁, queued⟩ := enqueue_shape (s := s.stopTimer k) .cls (.context k) (hasRecord_of_owns own)
    rw [exec_restoreStaggerExpiry_due active timer, if_pos phase, walks, restoreWalk_takes assign taken fit, queued]
    have twice : ({ s.stopTimer k with
          injections := joinInjection ((s.stopTimer k).injectionFor d .cls (.context k)) (s.stopTimer k).injections,
          dirty := D₁ } : State).updContext k (fun c => { c with restoring := some d, sent := DevSet.none }) =
        { s with
          contexts := s.contexts.set k { s.context k with timer := none, restoring := some d, sent := DevSet.none },
          injections := joinInjection { device := d, code := .cls, tag := (s.device d).tag + 1, owner := .context k }
            s.injections,
          dirty := D₁ } := by
      unfold State.updContext State.setContext State.context
      dsimp only
      rw [State.stopTimer]
      unfold State.updContext State.setContext State.context
      rw [Three.get_set_same, Three.set_set]
      rfl
    rw [twice]
    refine next_finish_steady ?_ marked₁
    refine steady_setContext steady rfl rfl ?_
    intro both
    have waits : (s.context k).phase = .deadWait := both.2
    rw [phase] at waits
    cases waits

end Sys2Proof.Machine
end

section
/-! PROOFS. The ending of a context (R124, R125, R156): what each of its steps leaves, written as one record, and from them
what an ending leaves of the block. -/

namespace Sys2Proof.Machine

/-! ## What supply rests on (R5 to R7, R96) -/

section
variable {s u : State} (store : u.store = s.store) (closed : ∀ d, u.countedClosed d = s.countedClosed d)
include store closed

theorem supplyOf_of_closed (x : FourSet) : u.supplyOf x = s.supplyOf x := by
  have closed : u.countedClosed = s.countedClosed := funext closed
  unfold State.supplyOf State.closedIncomers
  rw [closed]
  cases s; cases u; cases store; rfl

theorem reach_of_closed (x : FourSet) : u.reach u.countedClosed x = s.reach s.countedClosed x := by
  have closed : u.countedClosed = s.countedClosed := funext closed
  rw [closed]
  cases s; cases u; cases store; rfl

theorem setSupply_of_closed (x : FourSet) : u.setSupply x = s.setSupply x := by
  unfold State.setSupply
  rw [reach_of_closed store closed, supplyOf_of_closed store closed]

theorem island_of_closed (b : SecId) : u.island b = s.island b := reach_of_closed store closed _

theorem fedAvailable_of_closed (states : ∀ n, (u.source n).state = (s.source n).state) (x : FourSet) :
    u.fedAvailable x = s.fedAvailable x := by
  unfold State.fedAvailable State.isAvailable
  rw [setSupply_of_closed store closed]
  simp only [states]

theorem needsSupply_of_closed (states : ∀ n, (u.source n).state = (s.source n).state) (x : FourSet) :
    u.needsSupply x = s.needsSupply x := by
  unfold State.needsSupply
  rw [setSupply_of_closed store closed]
  simp only [states]

theorem nothingToEvaluate_of_closed (states : ∀ n, (u.source n).state = (s.source n).state)
    (nothing : s.nothingToEvaluate) : u.nothingToEvaluate := by
  refine ⟨fun b => ?_, ?_⟩
  · rw [island_of_closed store closed, needsSupply_of_closed store closed states]
    exact nothing.1 b
  · rw [State.board, store]
    exact nothing.2

end

/-! ## One section after another -/

/-- An operation carried out for each section of a list: where it changes the section's own record and the dirty set, and
reads no other section, each section finds its record as the fold began. -/
theorem foldl_sections_shape {s : State} {f : State → SecId → State} {g : SecId → Section → Section}
    (step : ∀ S D b, ∃ D', (∀ off ∈ D, off ∈ D') ∧
      f { s with sections := S, dirty := D } b = { s with sections := S.set b (g b (S.get b)), dirty := D' })
    {bs : List SecId} (nodup : bs.Nodup) (S : Four Section) (D : List Nat) :
    ∃ S' D', (∀ off ∈ D, off ∈ D') ∧ (∀ b, S'.get b = if b ∈ bs then g b (S.get b) else S.get b) ∧
      bs.foldl f { s with sections := S, dirty := D } = { s with sections := S', dirty := D' } := by
  induction bs generalizing S D with
  | nil => exact ⟨S, D, fun _ mem => mem, by simp, rfl⟩
  | cons b bs ih =>
    obtain ⟨fresh, nodup⟩ := List.nodup_cons.1 nodup
    obtain ⟨D₁, marked₁, first⟩ := step S D b
    obtain ⟨S', D', marked, records, rest⟩ := ih nodup (S.set b (g b (S.get b))) D₁
    refine ⟨S', D', fun off mem => marked off (marked₁ off mem), fun c => ?_, ?_⟩
    · rw [records, Four.get_set]
      by_cases own : c = b
      · subst own
        simp [fresh]
      · simp [own]
    · rw [List.foldl_cons, first, rest]

theorem nodup_toList (x : FourSet) : (FourSet.toList x).Nodup := List.Pairwise.filter _ (by decide)

/-! ## The parallel rule (R156) -/

/-- Every OPEN of a queue stands in another, as a command for its device. -/
def opensStand (q q' : List Injection) : Prop :=
  ∀ e ∈ q, e.code = .opn → ∃ e' ∈ q', e'.device = e.device ∧ e'.code = .opn

theorem opensStand_refl (q : List Injection) : opensStand q q := fun e mem code => ⟨e, mem, rfl, code⟩

theorem opensStand_trans {q q' q'' : List Injection} (h : opensStand q q') (g : opensStand q' q'') : opensStand q q'' := by
  intro e mem code
  obtain ⟨e', mem', device', code'⟩ := h e mem code
  obtain ⟨e'', mem'', device'', code''⟩ := g e' mem' code'
  exact ⟨e'', mem'', device''.trans device', code''⟩

theorem mem_joinInjection_self (e : Injection) (q : List Injection) : e ∈ joinInjection e q := by
  unfold joinInjection
  split
  · next found =>
    obtain ⟨x, mem, same⟩ := List.any_eq_true.1 found
    exact List.mem_map.2 ⟨x, mem, if_pos same⟩
  · exact List.mem_append_right _ (List.mem_singleton.2 rfl)

theorem mem_joinInjection_other {e x : Injection} {q : List Injection} (mem : x ∈ q) (other : x.device ≠ e.device) :
    x ∈ joinInjection e q := by
  unfold joinInjection
  split
  · exact List.mem_map.2 ⟨x, mem, if_neg (by simpa using other)⟩
  · exact List.mem_append_left _ mem

theorem opensStand_join {e : Injection} (q : List Injection) (code : e.code = .opn) :
    opensStand q (joinInjection e q) := by
  intro x mem opens
  by_cases same : x.device = e.device
  · exact ⟨e, mem_joinInjection_self e q, same.symm, code⟩
  · exact ⟨x, mem_joinInjection_other mem same, rfl, opens⟩

/-- A command of the context's, queued or not. -/
theorem command_any (s : State) (k : CtxId) (d : Option DevId) :
    ∃ I D, (∀ off ∈ s.dirty, off ∈ D) ∧ opensStand s.injections I ∧
      s.command k .opn d = { s with injections := I, dirty := D } := by
  unfold State.command
  split
  · next d =>
    split
    · next own =>
      obtain ⟨D, marked, queued⟩ := enqueue_shape .opn (.context k) (hasRecord_of_owns own)
      exact ⟨_, D, marked, opensStand_join _ rfl, queued⟩
    · exact ⟨s.injections, s.dirty, fun _ mem => mem, opensStand_refl _, rfl⟩
  · exact ⟨s.injections, s.dirty, fun _ mem => mem, opensStand_refl _, rfl⟩

theorem parallelRule_shape (s : State) (k : CtxId) :
    ∃ I D, (∀ off ∈ s.dirty, off ∈ D) ∧ opensStand s.injections I ∧
      s.parallelRule k = { s with injections := I, dirty := D } := by
  have same : ∃ I D, (∀ off ∈ s.dirty, off ∈ D) ∧ opensStand s.injections I ∧
      s = { s with injections := I, dirty := D } :=
    ⟨s.injections, s.dirty, fun _ mem => mem, opensStand_refl _, rfl⟩
  unfold State.parallelRule
  dsimp only
  split
  · exact same
  · split
    · exact command_any s k _
    · exact same

/-! ## The claim withdrawn (R129, R133) -/

/-- A context without a claim. -/
def Context.unclaimed (c : Context) : Context := { c with claim := .none }

theorem Context.unclaimed_of_none {c : Context} (none_ : c.claim = .none) : c.unclaimed = c := by
  unfold Context.unclaimed
  rw [← none_]

/-- The claim of a context goes; if another holds the selector in its name, that one loses its claim too. -/
theorem withdrawClaim_shape (s : State) (k : CtxId) :
    ∃ C Y, (∀ j, j ≠ k → C.get j = s.context j ∨ C.get j = (s.context j).unclaimed) ∧
      C.get k = (s.context k).unclaimed ∧ (s.sync.hold = none → Y.hold = none) ∧
      (∀ j ∈ Y.claims, j ∈ s.sync.claims) ∧ s.withdrawClaim k = { s with contexts := C, sync := Y } := by
  unfold State.withdrawClaim
  cases claim : (s.context k).claim with
  | none =>
    exact ⟨s.contexts, s.sync, fun _ _ => .inl rfl, (Context.unclaimed_of_none claim).symm, id, fun _ mem => mem, rfl⟩
  | waiting =>
    refine ⟨s.contexts.set k (s.context k).unclaimed, _, fun j ne => .inl (Three.get_set_ne _ ne _),
      Three.get_set_same _ _ _, ?_, ?_, rfl⟩
    · exact id
    · exact fun j mem => (List.mem_filter.1 mem).1
  | held =>
    dsimp only
    unfold State.releaseSync
    cases hold : s.sync.hold with
    | none =>
      refine ⟨s.contexts.set k (s.context k).unclaimed, s.sync, fun j ne => .inl (Three.get_set_ne _ ne _),
        Three.get_set_same _ _ _, fun _ => hold, fun _ mem => mem, rfl⟩
    | some h =>
      refine ⟨(s.contexts.set h.context (s.context h.context).unclaimed).set k
        ((s.contexts.set h.context (s.context h.context).unclaimed).get k).unclaimed, { s.sync with hold := none },
        fun j ne => ?_, ?_, fun _ => rfl, fun _ mem => mem, rfl⟩
      · rw [Three.get_set_ne _ ne, Three.get_set]
        split
        · next own =>
          subst own
          exact .inr rfl
        · exact .inl rfl
      · rw [Three.get_set_same, Three.get_set]
        split
        · next own =>
          subst own
          rfl
        · rfl

/-! ## Run demand worked out (R84, R85) -/

theorem workOutDemand_shape (s : State) (n : SrcId) :
    ∃ D, (∀ off ∈ s.dirty, off ∈ D) ∧
      s.workOutDemand n = { s with sources := s.sources.set n (s.demanded n), dirty := D } := by
  unfold State.workOutDemand
  split
  · next same =>
    refine ⟨s.dirty, fun _ mem => mem, ?_⟩
    rw [same]
    show s = { s with sources := s.sources.set n (s.sources.get n) }
    rw [Four.set_get]
  · exact ⟨_, fun off mem => (mem_markList [sourceStatusOffset n] _ _).2 (.inl mem), rfl⟩

theorem demanded_congr {s : State} {R : Four Source} {D : List Nat} {n : SrcId} (same : R.get n = s.source n) :
    ({ s with sources := R, dirty := D } : State).demanded n = s.demanded n := by
  unfold State.demanded State.source
  rw [same]
  rfl

theorem workOutDemands_shape (s : State) :
    ∃ D, (∀ off ∈ s.dirty, off ∈ D) ∧
      s.workOutDemands = { s with sources := Four.ofFn s.demanded, dirty := D } := by
  have folds : ∀ (ns : List SrcId), ns.Nodup → ∀ (R : Four Source) (D : List Nat),
      (∀ n ∈ ns, R.get n = s.source n) → ∃ R' D', (∀ off ∈ D, off ∈ D') ∧
        (∀ n, R'.get n = if n ∈ ns then s.demanded n else R.get n) ∧
        ns.foldl State.workOutDemand { s with sources := R, dirty := D } = { s with sources := R', dirty := D' } := by
    intro ns nodup
    induction ns with
    | nil => exact fun R D _ => ⟨R, D, fun _ mem => mem, by simp, rfl⟩
    | cons n ns ih =>
      intro R D untouched
      obtain ⟨fresh, nodup⟩ := List.nodup_cons.1 nodup
      obtain ⟨D₁, marked₁, first⟩ := workOutDemand_shape { s with sources := R, dirty := D } n
      rw [demanded_congr (untouched n List.mem_cons_self)] at first
      obtain ⟨R', D', marked, sources, rest⟩ := ih nodup (R.set n (s.demanded n)) D₁ fun m mem => by
        rw [Four.get_set_ne _ (ne_of_mem_of_not_mem mem fresh)]
        exact untouched m (List.mem_cons_of_mem _ mem)
      refine ⟨R', D', fun off mem => marked off (marked₁ off mem), fun m => ?_, ?_⟩
      · rw [sources, Four.get_set]
        by_cases own : m = n
        · subst own
          simp [fresh]
        · simp [own]
      · rw [List.foldl_cons, first, rest]
  obtain ⟨R, D, marked, sources, folded⟩ := folds allFours (by decide) s.sources s.dirty fun _ _ => rfl
  refine ⟨D, marked, folded.trans ?_⟩
  rw [show R = Four.ofFn s.demanded from Four.ext_get fun n => by
    rw [sources, if_pos (by revert n; decide), Four.get_ofFn]]

theorem demanded_same (s : State) (n : SrcId) :
    (s.demanded n).state = (s.source n).state ∧ (s.demanded n).health = (s.source n).health ∧
      (s.demanded n).ride = (s.source n).ride ∧ (s.demanded n).stab = (s.source n).stab := by
  unfold State.demanded
  dsimp only
  split
  · exact ⟨rfl, rfl, rfl, rfl⟩
  · split
    · exact ⟨rfl, rfl, rfl, rfl⟩
    · split
      · exact ⟨rfl, rfl, rfl, rfl⟩
      · exact ⟨rfl, rfl, rfl, rfl⟩

/-! ## The release (R51, R54) -/

theorem cancelCloses_shape (s : State) (k : CtxId) :
    ∃ D, (∀ off ∈ s.dirty, off ∈ D) ∧ s.cancelCloses k =
      { s with injections := s.injections.filter fun e => !(e.code == .cls && e.owner == .context k), dirty := D } :=
  dropInjections_shape s _

/-- A device of a released context is the processor's. -/
def State.releasedDevice (s : State) (k : CtxId) (d : DevId) : Device :=
  if s.owns k d = true then { s.device d with owner := .processor } else s.device d

theorem recheck_nothing {k : CtxId} {s : State} {d : DevId} (none_ : (s.device d).deferred = none) :
    State.recheck k s d = s := by
  unfold State.recheck
  rw [none_]

/-! ### Room in the log (R173)

A release raises at most one frame for each deferred word, and the ending one more; none of them frees a context as long as
the slots ahead carry no mark. -/

/-- The next n frames find unmarked slots. -/
def State.room (s : State) (n : Nat) : Prop := ∀ i, i < n → s.waitingOn (s.recorder.index + BitVec.ofNat 5 i) = none

/-- How many deferred words wait. -/
def State.deferredCount (s : State) : Nat := allDevices.countP fun d => (s.device d).deferred.isSome

theorem room_of_noMarks {s : State} (noMarks : s.noMarks) (n : Nat) : s.room n := fun i _ => by
  unfold State.waitingOn
  exact List.find?_eq_none.2 fun k _ => by simp [noMarks k]

theorem State.room.mono {s : State} {m n : Nat} (h : s.room n) (le : m ≤ n) : s.room m :=
  fun i lt => h i (Nat.lt_of_lt_of_le lt le)

theorem State.room.unmarked {s : State} {n : Nat} (h : s.room (n + 1)) : s.slotUnmarked := by
  have first := h 0 (Nat.succ_pos n)
  rwa [show s.recorder.index + BitVec.ofNat 5 0 = s.recorder.index from BitVec.add_zero _] at first

theorem room_one {s : State} (unmarked : s.slotUnmarked) : s.room 1 := fun i lt => by
  obtain rfl : i = 0 := by omega
  rwa [show s.recorder.index + BitVec.ofNat 5 0 = s.recorder.index from BitVec.add_zero _]

theorem State.room.of {s u : State} {n : Nat} (h : s.room n) (index : u.recorder.index = s.recorder.index)
    (marks : u.recorder.marks = s.recorder.marks) : u.room n := fun i lt => by
  have here := h i lt
  unfold State.waitingOn at here ⊢
  rwa [index, marks]

/-- A frame raised takes one slot. -/
theorem State.room.next {s u : State} {n : Nat} (h : s.room (n + 1)) (index : u.recorder.index = s.recorder.index + 1)
    (marks : u.recorder.marks = s.recorder.marks) : u.room n := fun i lt => by
  have here := h (i + 1) (by omega)
  have slot : s.recorder.index + BitVec.ofNat 5 (i + 1) = s.recorder.index + 1 + BitVec.ofNat 5 i := by
    rw [BitVec.add_assoc]
    congr 1
    apply BitVec.eq_of_toNat_eq
    rw [BitVec.toNat_add, BitVec.toNat_ofNat, BitVec.toNat_ofNat, show (1 : BitVec 5).toNat = 1 from rfl]
    omega
  rw [slot] at here
  unfold State.waitingOn at here ⊢
  rwa [index, marks]

theorem countP_update {p q : DevId → Bool} {d : DevId} (before : p d = true) (after : q d = false)
    (same : ∀ e, e ≠ d → q e = p e) {ds : List DevId} (nodup : ds.Nodup) (mem : d ∈ ds) :
    ds.countP q + 1 = ds.countP p := by
  induction ds with
  | nil => cases mem
  | cons e es ih =>
    obtain ⟨fresh, nodup⟩ := List.nodup_cons.1 nodup
    rw [List.countP_cons, List.countP_cons]
    by_cases own : e = d
    · subst own
      rw [before, after, List.countP_congr fun x mem => by rw [same x (ne_of_mem_of_not_mem mem fresh)]]
      simp
    · rw [same e own, ← ih nodup ((List.mem_cons.1 mem).resolve_left (Ne.symm own))]
      omega

theorem deferredCount_congr {s u : State} (h : ∀ d, (u.device d).deferred = (s.device d).deferred) :
    u.deferredCount = s.deferredCount := by
  unfold State.deferredCount
  simp only [h]

theorem deferredCount_zero {s : State} (noDeferred : s.noDeferred) : s.deferredCount = 0 := by
  unfold State.deferredCount
  exact List.countP_eq_zero.2 fun d _ => by simp [noDeferred d]

theorem deferredCount_le (s : State) : s.deferredCount ≤ 16 := List.countP_le_length

/-! ### The deferred words re-checked -/

/-- What the re-check of deferred words leaves of the block. -/
structure Rechecked (s u : State) : Prop where
  shape : ∃ I V R D, u = { s with injections := I, devices := V, recorder := R, dirty := D }
  dirty : ∀ off ∈ s.dirty, off ∈ u.dirty
  device : ∀ d, u.device d = { s.device d with deferred := (u.device d).deferred }
  deferred : ∀ d, (s.device d).deferred = none → (u.device d).deferred = none
  injections : ∀ e ∈ s.injections, (s.device e.device).deferred = none → e ∈ u.injections
  marks : u.recorder.marks = s.recorder.marks
  still : s.noDeferred → u = s
  room : ∀ m, s.room (s.deferredCount + m) → u.room (u.deferredCount + m)

theorem Rechecked.refl (s : State) : Rechecked s s :=
  ⟨⟨_, _, _, _, rfl⟩, fun _ mem => mem, fun _ => rfl, fun _ none_ => none_, fun _ mem _ => mem, rfl, fun _ => rfl,
    fun _ room => room⟩

theorem Rechecked.trans {s t u : State} (h : Rechecked s t) (g : Rechecked t u) : Rechecked s u := by
  refine ⟨?_, fun off mem => g.dirty off (h.dirty off mem), fun d => ?_, fun d none_ => g.deferred d (h.deferred d none_),
    fun e mem none_ => g.injections e (h.injections e mem none_) (h.deferred _ none_), g.marks.trans h.marks,
    fun none_ => ?_, fun m room => g.room m (h.room m room)⟩
  · obtain ⟨I, V, R, D, rfl⟩ := h.shape
    obtain ⟨I', V', R', D', rfl⟩ := g.shape
    exact ⟨I', V', R', D', rfl⟩
  · rw [g.device d, h.device d]
  · have same := h.still none_
    subst same
    exact g.still none_

/-- The slot of a device emptied. -/
theorem undefer_shape {s : State} {d : DevId} {w : Word} (waits : (s.device d).deferred = some w) (u : State)
    (hu : u = s.updDevice d fun x => { x with deferred := none }) :
    Rechecked s u ∧ u.deferredCount + 1 = s.deferredCount := by
  have record : ∀ e, u.device e = if e = d then { s.device d with deferred := none } else s.device e := fun e => by
    rw [hu]
    exact Sixteen.get_set _ _ _ _
  have fewer : u.deferredCount + 1 = s.deferredCount := by
    refine countP_update (d := d) (by rw [waits]; rfl) ?_ (fun e ne => ?_) nodup_allDevices (mem_allDevices d)
    · rw [record, if_pos rfl]
      rfl
    · rw [record, if_neg ne]
  refine ⟨⟨⟨s.injections, u.devices, s.recorder, s.dirty, by rw [hu]; rfl⟩, fun off mem => by rw [hu]; exact mem,
    fun e => ?_, fun e none_ => ?_, fun e mem _ => by rw [hu]; exact mem, by rw [hu]; rfl, fun none_ => ?_,
    fun m room => ?_⟩, fewer⟩
  · rw [record]
    split
    · next own =>
      subst own
      rfl
    · rfl
  · rw [record]
    split
    · rfl
    · exact none_
  · rw [none_ d] at waits
    cases waits
  · exact (room.mono (by omega)).of (by rw [hu]; rfl) (by rw [hu]; rfl)

/-- The re-check of one device's word. -/
theorem recheck_rechecked {k : CtxId} {s : State} {d : DevId} (room : s.room s.deferredCount) :
    Rechecked s (State.recheck k s d) := by
  cases waits : (s.device d).deferred with
  | none =>
    rw [recheck_nothing waits]
    exact .refl s
  | some w =>
    obtain ⟨u, hu⟩ : ∃ u, u = s.updDevice d fun x => { x with deferred := none } := ⟨_, rfl⟩
    obtain ⟨emptied, fewer⟩ := undefer_shape waits u hu
    have deferred : ¬s.noDeferred := fun none_ => by
      rw [none_ d] at waits
      cases waits
    have waits_still : (s.device d).deferred ≠ none := by rw [waits]; exact Option.some_ne_none w
    unfold State.recheck
    rw [waits]
    dsimp only
    rw [← hu]
    split
    · next code =>
      unfold State.enqueue
      split
      · refine ⟨?_, fun off mem => (mem_markList [deviceStatusOffset d] _ _).2 (.inl (emptied.dirty off mem)),
          emptied.device, emptied.deferred, fun e mem none_ => ?_, emptied.marks, fun none_ => absurd none_ deferred,
          fun m room => ?_⟩
        · rw [hu]
          exact ⟨_, _, _, _, rfl⟩
        · exact mem_joinInjection_other (emptied.injections e mem none_) fun same => by
            have own : e.device = d := same
            rw [own] at none_
            exact waits_still none_
        · exact (emptied.room m room).of rfl rfl
      · exact emptied
    · next reason =>
      have unmarked : u.slotUnmarked := State.room.unmarked (n := u.deferredCount) <| by
        rw [fewer]
        exact room.of (by rw [hu]; rfl) (by rw [hu]; rfl)
      rw [raise_recorded _ _ unmarked]
      refine ⟨?_, fun off mem => (mem_markList _ _ _).2 (.inl (emptied.dirty off mem)), emptied.device,
        emptied.deferred, emptied.injections, emptied.marks, fun none_ => absurd none_ deferred, fun m room => ?_⟩
      · rw [hu]
        exact ⟨_, _, _, _, rfl⟩
      · refine State.room.next (s := s) (n := u.deferredCount + m) ?_ ?_ emptied.marks
        · rw [← fewer] at room
          exact room.mono (by omega)
        · rw [hu]
          rfl
    · exact emptied

theorem foldl_recheck {k : CtxId} {s : State} (ds : List DevId) (room : s.room s.deferredCount) :
    Rechecked s (ds.foldl (State.recheck k) s) := by
  induction ds generalizing s with
  | nil => exact .refl s
  | cons d ds ih =>
    have first := recheck_rechecked (k := k) (d := d) room
    exact first.trans (ih (first.room 0 room))

/-- The devices of a context returned and its CLOSEs cancelled, before the deferred words are re-checked. -/
theorem release_shape (s : State) (k : CtxId) :
    ∃ D, (∀ off ∈ s.dirty, off ∈ D) ∧ s.release k =
      (allDevices.filter fun d => s.owns k d).foldl (State.recheck k) { s with
        injections := s.injections.filter fun e => !(e.code == .cls && e.owner == .context k),
        devices := Sixteen.ofFn (s.releasedDevice k), dirty := D } := by
  obtain ⟨D₁, marked₁, cancelled⟩ := cancelCloses_shape s k
  unfold State.release
  dsimp only
  rw [cancelled]
  obtain ⟨V, D, marked, records, returned⟩ := foldl_devices_shape (s := s) (f := fun s d => s.setOwner d .processor)
    (g := fun _ x => { x with owner := .processor }) (h := fun _ _ q => q)
    (fun V I D d => setOwner_shape { s with devices := V, injections := I, dirty := D } d .processor)
    (ds := allDevices.filter fun d => s.owns k d) (List.Pairwise.filter _ nodup_allDevices) s.devices
    (s.injections.filter fun e => !(e.code == .cls && e.owner == .context k)) D₁
  have table : V = Sixteen.ofFn (s.releasedDevice k) := Sixteen.ext_get fun d => by
    rw [records, Sixteen.get_ofFn]
    unfold State.releasedDevice State.device
    simp only [List.mem_filter, mem_allDevices, true_and]
  refine ⟨D, fun off mem => marked off (marked₁ off mem), ?_⟩
  rw [foldl_doing_nothing] at returned
  refine (congrArg (List.foldl (State.recheck k) · _) returned).trans ?_
  rw [table]
  rfl

theorem releasedDevice_deferred (s : State) (k : CtxId) (d : DevId) :
    (s.releasedDevice k d).deferred = (s.device d).deferred := by
  unfold State.releasedDevice
  split
  · rfl
  · rfl

/-- What a release leaves of the block (R51, R54). -/
structure Released (s u : State) (k : CtxId) : Prop where
  shape : ∃ I V R D, u = { s with injections := I, devices := V, recorder := R, dirty := D }
  dirty : ∀ off ∈ s.dirty, off ∈ u.dirty
  device : ∀ d, u.device d = { s.releasedDevice k d with deferred := (u.device d).deferred }
  deferred : ∀ d, (s.device d).deferred = none → (u.device d).deferred = none
  opens : ∀ e ∈ s.injections, e.code = .opn → (s.device e.device).deferred = none → e ∈ u.injections
  marks : u.recorder.marks = s.recorder.marks
  still : s.noDeferred → u.recorder = s.recorder
  room : ∀ m, s.room (s.deferredCount + m) → u.room (u.deferredCount + m)

theorem release_released {s : State} (k : CtxId) (room : s.room s.deferredCount) : Released s (s.release k) k := by
  obtain ⟨D, marked, released⟩ := release_shape s k
  obtain ⟨t, ht⟩ : ∃ t : State, t = { s with
    injections := s.injections.filter fun e => !(e.code == .cls && e.owner == .context k),
    devices := Sixteen.ofFn (s.releasedDevice k), dirty := D } := ⟨_, rfl⟩
  have device : ∀ d, t.device d = s.releasedDevice k d := fun d => by
    rw [ht]
    exact Sixteen.get_ofFn _ _
  have count : t.deferredCount = s.deferredCount :=
    deferredCount_congr fun d => by rw [device, releasedDevice_deferred]
  have room_t : ∀ m, s.room m → t.room m := fun m room => room.of (by rw [ht]) (by rw [ht])
  have again : Rechecked t (s.release k) := by
    rw [released, ← ht]
    exact foldl_recheck _ (count ▸ room_t _ room)
  refine ⟨?_, fun off mem => again.dirty off ?_, fun d => ?_, fun d none_ => again.deferred d ?_,
    fun e mem code none_ => again.injections e ?_ ?_, ?_, fun none_ => ?_, fun m room => again.room m ?_⟩
  · obtain ⟨I, V, R, D', same⟩ := again.shape
    rw [same, ht]
    exact ⟨I, V, R, D', rfl⟩
  · rw [ht]
    exact marked off mem
  · rw [again.device d, device]
  · rw [device, releasedDevice_deferred]
    exact none_
  · rw [ht]
    exact List.mem_filter.2 ⟨mem, by simp [code]⟩
  · rw [device, releasedDevice_deferred]
    exact none_
  · rw [again.marks, ht]
  · rw [again.still fun d => by rw [device, releasedDevice_deferred]; exact none_ d, ht]
  · rw [count]
    exact room_t _ room

theorem releasedDevice_same (s : State) (k : CtxId) (d : DevId) :
    (s.releasedDevice k d).observed = (s.device d).observed ∧ (s.releasedDevice k d).op = (s.device d).op := by
  unfold State.releasedDevice
  split
  · exact ⟨rfl, rfl⟩
  · exact ⟨rfl, rfl⟩

/-! ## The sections (R103, R105, R123) -/

/-- The record of a section of the set once its transfer has ended (R103, R123). -/
def State.sectionEnded (s : State) (c : Context) (r : Result) (named : FourSet) (b : SecId) : Section :=
  if r.completed = true then
    { state := sectionAfter r (named.get b), borrow := c.borrowAfter,
      withheld := Sixteen.ofFn fun d => c.withheld.get d && s.feederOn (singleSection b) d }
  else { s.section b with state := sectionAfter r (named.get b) }

/-- The ending leaves the evaluation of the sections made ARMED nothing to do: there are none, or no island gives it
anything. -/
def State.endsQuietly (s : State) (c : Context) (r : Result) (named : FourSet) : Prop :=
  (∀ b, c.set.get b = true → sectionAfter r (named.get b) ≠ .armed) ∨ s.nothingToEvaluate

/-- The sections once the transfer of a context has ended. -/
def State.sectionsEnded (s : State) (c : Context) (r : Result) (named : FourSet) : Four Section :=
  Four.ofFn fun b => if c.set.get b = true then s.sectionEnded c r named b else s.section b

theorem endSections_shape {s : State} (asg : State → State) {k : CtxId} {r : Result} {named : FourSet}
    (quiet : s.endsQuietly (s.context k) r named) :
    ∃ D, (∀ off ∈ s.dirty, off ∈ D) ∧ s.endSections asg k r named =
      { s with sections := s.sectionsEnded (s.context k) r named, dirty := D } := by
  obtain ⟨S₁, D₁, marked₁, records₁, states⟩ := foldl_sections_shape (s := s)
    (f := fun s b => s.setSectionState b (sectionAfter r (named.get b)))
    (g := fun b x => { x with state := sectionAfter r (named.get b) })
    (fun S D b => setSectionState_shape { s with sections := S, dirty := D } b _)
    (nodup_toList (s.context k).set) s.sections s.dirty
  obtain ⟨S₂, D₂, marked₂, records₂, handed⟩ := foldl_sections_shape (s := s) (f := State.handOver (s.context k))
    (g := fun b x => { x with
      borrow := (s.context k).borrowAfter,
      withheld := Sixteen.ofFn fun d => (s.context k).withheld.get d && s.feederOn (singleSection b) d })
    (fun S D b => ⟨D, fun _ mem => mem, rfl⟩) (nodup_toList (s.context k).set) S₁ D₁
  have after : ∃ D, (∀ off ∈ s.dirty, off ∈ D) ∧
      (if r.completed then (FourSet.toList (s.context k).set).foldl (State.handOver (s.context k))
          ((FourSet.toList (s.context k).set).foldl
            (fun s b => s.setSectionState b (sectionAfter r (named.get b))) s)
        else (FourSet.toList (s.context k).set).foldl
          (fun s b => s.setSectionState b (sectionAfter r (named.get b))) s) =
      { s with sections := s.sectionsEnded (s.context k) r named, dirty := D } := by
    have begin_ : ({ s with sections := s.sections, dirty := s.dirty } : State) = s := rfl
    rw [begin_] at states
    rw [states]
    unfold State.sectionsEnded State.sectionEnded
    split
    · refine ⟨D₂, fun off mem => marked₂ off (marked₁ off mem), handed.trans ?_⟩
      congr 1
      refine Four.ext_get fun b => ?_
      rw [records₂, records₁, Four.get_ofFn]
      simp only [FourSet.mem_toList]
      split
      · rfl
      · rfl
    · refine ⟨D₁, marked₁, ?_⟩
      congr 1
      refine Four.ext_get fun b => ?_
      rw [records₁, Four.get_ofFn]
      simp only [FourSet.mem_toList]
      rfl
  obtain ⟨D, marked, after⟩ := after
  refine ⟨D, marked, ?_⟩
  unfold State.endSections
  dsimp only
  rw [after]
  rcases quiet with none_ | nothing
  · rw [List.filter_eq_nil_iff.2 fun b mem => ?_, evaluate_nil]
    simpa using none_ b ((FourSet.mem_toList _ _).1 mem)
  · rw [evaluate_nothing]
    exact nothing

/-! ## The frame (R125, R173) -/

theorem raiseEnd_shape {s : State} (k : CtxId) (r : Result) (unmarked : s.slotUnmarked) :
    ∃ D, (∀ off ∈ s.dirty, off ∈ D) ∧ s.raiseEnd k r =
      { s with
        recorder := { s.recorded (s.transferEnd k r) with
          marks := s.recorder.marks.set k (some s.recorder.index) },
        dirty := D } := by
  unfold State.raiseEnd
  dsimp only
  rw [raise_recorded _ _ unmarked]
  exact ⟨_, fun off mem => (mem_markList _ _ _).2 (.inl mem), rfl⟩

end Sys2Proof.Machine
end

section
/-! PROOFS. What the ending of a context leaves (R103, R124, R125), and the events that end a transfer whatever its phase
(R93, R152 to R155). -/

namespace Sys2Proof.Machine

/-! ## An ending as a whole -/

/-- The record of a context that has ended (R124). -/
def Context.ended (c : Context) (r : Result) : Context :=
  { c with
    state := .ending, phase := .ending, result := some r, awaited := none, timer := none, reroute := false,
    claim := .none }

/-- A context as it enters ENDING (R124). -/
def Context.ending (r : Result) (c : Context) : Context :=
  { c with state := .ending, phase := .ending, result := some r, awaited := none, timer := none, reroute := false }

/-- The state of a context that ends, before run demand is worked out. -/
def State.beginEnd (s : State) (k : CtxId) (r : Result) : State :=
  ((s.parallelRule k).withdrawClaim k).updContext k (Context.ending r)

theorem endContext_eq (asg : State → State) (k : CtxId) (r : Result) (named : FourSet) (s : State) :
    endContext asg k r named s =
      State.raiseEnd k r (State.endSections asg k r named ((s.beginEnd k r).workOutDemands.release k)) := rfl

/-- What the ending of context k leaves of the block it met. -/
structure Ended (s u : State) (k : CtxId) (r : Result) (named : FourSet) : Prop where
  own : u.context k = (s.context k).ended r
  others : ∀ j, j ≠ k → u.context j = s.context j ∨ u.context j = (s.context j).unclaimed
  device : ∀ d, u.device d = { s.releasedDevice k d with deferred := (u.device d).deferred }
  deferred : ∀ d, (s.device d).deferred = none → (u.device d).deferred = none
  sections : ∀ b, u.section b =
    if (s.context k).set.get b = true then s.sectionEnded (s.context k) r named b else s.section b
  source : ∀ n, u.source n = ({ s with contexts := u.contexts }).demanded n
  recorder : ∃ v : State, v.ms = s.ms ∧ v.store = s.store ∧ v.recorder.marks = s.recorder.marks ∧
    (s.noDeferred → v.recorder = s.recorder) ∧ u.recorder = v.recordedEnd u k r
  opens : ∀ e ∈ s.injections, e.code = .opn → (s.device e.device).deferred = none →
    ∃ e' ∈ u.injections, e'.device = e.device ∧ e'.code = .opn
  room : ∀ m, m ≤ 14 → s.room (s.deferredCount + m + 1) → u.room (u.deferredCount + m)
  hold : s.sync.hold = none → u.sync.hold = none
  claims : ∀ j ∈ u.sync.claims, j ∈ s.sync.claims
  dirty : ∀ off ∈ s.dirty, off ∈ u.dirty
  image : u.image = s.image
  store : u.store = s.store
  ms : u.ms = s.ms
  queue : u.queue = s.queue
  freed : u.freed = s.freed
  latch : u.latch = s.latch
  locks : u.locks = s.locks

theorem countedClosed_of_released {s u : State} (k : CtxId) (store : u.store = s.store)
    (device : ∀ d, u.device d = { s.releasedDevice k d with deferred := (u.device d).deferred }) (d : DevId) :
    u.countedClosed d = s.countedClosed d := by
  obtain ⟨observed, op⟩ := releasedDevice_same s k d
  refine countedClosed_congr store ?_ ?_
  · rw [device, ← observed]
  · rw [device, ← op]

/-- A mark set at the slot of a frame just raised stands in the way of none of the next 30. -/
theorem room_of_marked {s u : State} {k : CtxId} {n : Nat} (small : n ≤ 30) (room : s.room (n + 1))
    (index : u.recorder.index = s.recorder.index + 1)
    (marks : u.recorder.marks = s.recorder.marks.set k (some s.recorder.index)) : u.room n := fun i lt => by
  have before : ({ s with recorder := { s.recorder with index := s.recorder.index + 1 } } : State).room n :=
    room.next rfl rfl
  have here := before i lt
  unfold State.waitingOn at here ⊢
  rw [List.find?_eq_none] at here ⊢
  intro j mem
  rw [index, marks, Three.get_set]
  split
  · rw [beq_iff_eq, Option.some_inj]
    intro same
    have value := congrArg BitVec.toNat same
    rw [BitVec.toNat_add, BitVec.toNat_add, BitVec.toNat_ofNat, show (1 : BitVec 5).toNat = 1 from rfl] at value
    have bound := s.recorder.index.isLt
    omega
  · exact here j mem

theorem endContext_ended {s : State} (asg : State → State) {k : CtxId} {r : Result} {named : FourSet}
    (room : s.room (s.deferredCount + 1)) (quiet : s.endsQuietly (s.context k) r named) :
    Ended s (endContext asg k r named s) k r named := by
  obtain ⟨I₁, D₁, marked₁, opens₁, parallel⟩ := parallelRule_shape s k
  obtain ⟨C, Y, others, own, hold, claims, withdrawn⟩ := withdrawClaim_shape { s with injections := I₁, dirty := D₁ } k
  have ends : s.beginEnd k r =
      { s with injections := I₁, contexts := C.set k ((s.context k).ended r), sync := Y, dirty := D₁ } := by
    unfold State.beginEnd
    rw [parallel, withdrawn]
    unfold State.updContext State.setContext State.context
    dsimp only
    rw [own]
    rfl
  obtain ⟨D₂, marked₂, demands⟩ := workOutDemands_shape
    { s with injections := I₁, contexts := C.set k ((s.context k).ended r), sync := Y, dirty := D₁ }
  obtain ⟨x, hx⟩ : ∃ x : State, x = { s with
      injections := I₁, contexts := C.set k ((s.context k).ended r), sync := Y, dirty := D₂
      sources := Four.ofFn ({ s with
        injections := I₁, contexts := C.set k ((s.context k).ended r), sync := Y, dirty := D₁ } : State).demanded } :=
    ⟨_, rfl⟩
  have count : x.deferredCount = s.deferredCount := deferredCount_congr fun d => by rw [hx]; rfl
  have room_x : ∀ m, s.room m → x.room m := fun m room => room.of (by rw [hx]) (by rw [hx])
  have released := release_released (s := x) k (by rw [count]; exact room_x _ (room.mono (Nat.le_succ _)))
  obtain ⟨v, hv⟩ : ∃ v, v = x.release k := ⟨_, rfl⟩
  rw [← hv] at released
  obtain ⟨I₃, V₃, R₃, D₃, shape⟩ := released.shape
  have device : ∀ d, v.device d = { s.releasedDevice k d with deferred := (v.device d).deferred } := fun d => by
    rw [released.device d, hx]
    rfl
  have context : v.context k = (s.context k).ended r := by
    rw [shape, hx]
    exact Three.get_set_same _ _ _
  have store : v.store = s.store := by rw [shape, hx]
  have states : ∀ n, (v.source n).state = (s.source n).state := fun n => by
    rw [shape, hx]
    unfold State.source
    rw [Four.get_ofFn]
    exact (demanded_same _ n).1
  have room_v : ∀ m, s.room (s.deferredCount + m) → v.room (v.deferredCount + m) := fun m room =>
    released.room m (by rw [count]; exact room_x _ room)
  obtain ⟨D₄, marked₄, sections⟩ := endSections_shape (s := v) asg (k := k) (r := r) (named := named) <| by
    rcases quiet with none_ | nothing
    · rw [context]
      exact .inl none_
    · exact .inr (nothingToEvaluate_of_closed store (countedClosed_of_released k store device) states nothing)
  obtain ⟨w, hw⟩ : ∃ w : State, w = { v with sections := v.sectionsEnded (v.context k) r named, dirty := D₄ } := ⟨_, rfl⟩
  rw [← hw] at sections
  have unmarked : w.slotUnmarked := ((room_v 1 room).unmarked).of (by rw [hw])
  obtain ⟨D₅, marked₅, raised⟩ := raiseEnd_shape (s := w) k r unmarked
  obtain ⟨u, hu⟩ : ∃ u : State, u = { w with
      recorder := { w.recorded (w.transferEnd k r) with marks := w.recorder.marks.set k (some w.recorder.index) },
      dirty := D₅ } := ⟨_, rfl⟩
  have whole : endContext asg k r named s = u := by
    rw [endContext_eq, ends, demands, ← hx, ← hv, sections, raised, hu]
  have same : ∀ d, u.device d = v.device d := fun d => by rw [hu, hw]; rfl
  rw [whole]
  refine ⟨?_, fun j ne => ?_, fun d => ?_, fun d none_ => ?_, fun b => ?_, fun n => ?_, ⟨v, ?_, store, ?_, fun none_ => ?_, ?_⟩,
    fun e mem code none_ => ?_, fun m small room => ?_, ?_, ?_, ?_, ?_, ?_, ?_, ?_, ?_, ?_, ?_⟩
  · rw [hu, hw]
    exact context
  · rw [hu, hw, shape, hx]
    show (C.set k ((s.context k).ended r)).get j = _ ∨ (C.set k ((s.context k).ended r)).get j = _
    rw [Three.get_set_ne _ ne]
    exact others j ne
  · rw [same]
    exact device d
  · rw [same]
    exact released.deferred d (by rw [hx]; exact none_)
  · rw [hu, hw]
    refine (Four.get_ofFn _ b).trans ?_
    rw [context, shape, hx]
    rfl
  · rw [hu, hw, shape, hx]
    exact Four.get_ofFn _ n
  · rw [shape, hx]
  · rw [released.marks, hx]
  · rw [released.still fun d => by rw [hx]; exact none_ d, hx]
  · rw [hu, hw]
    rfl
  · obtain ⟨e', mem', device', code'⟩ := opens₁ e mem code
    refine ⟨e', ?_, device', code'⟩
    rw [hu, hw]
    exact released.opens e' (by rw [hx]; exact mem') code' (by rw [hx, device']; exact none_)
  · rw [deferredCount_congr (s := v) fun d => by rw [same]]
    have bound := deferredCount_le v
    exact room_of_marked (s := v) (by omega) (room_v (m + 1) room) (by rw [hu, hw]; rfl) (by rw [hu, hw])
  · rw [hu, hw, shape, hx]
    exact hold
  · rw [hu, hw, shape, hx]
    exact claims
  · intro off mem
    rw [hu]
    refine marked₅ off ?_
    rw [hw]
    refine marked₄ off (released.dirty off ?_)
    rw [hx]
    exact marked₂ off (marked₁ off mem)
  · rw [hu, hw, shape, hx]
  · rw [hu, hw, shape, hx]
  · rw [hu, hw, shape, hx]
  · rw [hu, hw, shape, hx]
  · rw [hu, hw, shape, hx]
  · rw [hu, hw, shape, hx]
  · rw [hu, hw, shape, hx]

/-- Where no deferred word waits, the ending raises its own frame alone. -/
theorem Ended.recorder_eq {s u : State} {k : CtxId} {r : Result} {named : FourSet} (h : Ended s u k r named)
    (noDeferred : s.noDeferred) : u.recorder = s.recordedEnd u k r := by
  obtain ⟨v, ms, store, _, same, raised⟩ := h.recorder
  have recorder := same noDeferred
  rw [raised]
  unfold State.recordedEnd State.recorded State.attends
  rw [ms, store, recorder]

/-- The devices of the context are the processor's, the others keep their owners. -/
theorem Ended.device_eq {s u : State} {k : CtxId} {r : Result} {named : FourSet} (h : Ended s u k r named)
    {d : DevId} (none_ : (s.device d).deferred = none) : u.device d = s.releasedDevice k d := by
  rw [h.device d, h.deferred d none_, ← none_, ← releasedDevice_deferred s k d]

theorem Context.ended_unwatched (c : Context) (r : Result) : (c.ended r).unwatched := fun both => by cases both.1

theorem Context.unclaimed_unwatched {c : Context} (h : c.unwatched) : c.unclaimed.unwatched := h

/-- The dead-bus watch finds nothing to do once the context has ended. -/
theorem Ended.steady {s u : State} {k : CtxId} {r : Result} {named : FourSet} (h : Ended s u k r named)
    (steady : s.steadyBut k) : u.steady := by
  refine ⟨by rw [State.settled, h.freed]; exact steady.1, fun j => ?_⟩
  by_cases own : j = k
  · subst own
    rw [h.own]
    exact (s.context j).ended_unwatched r
  · rcases h.others j own with same | unclaimed
    · rw [same]
      exact steady.2 j own
    · rw [unclaimed]
      exact Context.unclaimed_unwatched (steady.2 j own)

/-- The end of the event marks words, and leaves what the ending of the context has left. -/
theorem Ended.finish {s u : State} {k : CtxId} {r : Result} {named : FourSet} (t : State) (h : Ended s u k r named)
    (steady : s.steadyBut k) : Ended s (u.finish t) k r named := by
  obtain ⟨D, marked, ended⟩ := finish_shape t (h.steady steady)
  rw [ended]
  exact ⟨h.own, h.others, h.device, h.deferred, h.sections, h.source, h.recorder, h.opens, h.room, h.hold, h.claims,
    fun off mem => marked off (h.dirty off mem), h.image, h.store, h.ms, h.queue, h.freed, h.latch, h.locks⟩

theorem Ended.owns_nothing {s u : State} {k : CtxId} {r : Result} {named : FourSet} (h : Ended s u k r named)
    (d : DevId) : u.owns k d = false := by
  have record : u.hasRecord d = s.hasRecord d := hasRecord_of_store h.store d
  unfold State.owns
  rw [record, h.device]
  show (s.hasRecord d && (s.releasedDevice k d).owner == .context k) = false
  unfold State.releasedDevice
  split
  · simp
  · next free => exact Bool.eq_false_iff.2 free

theorem Ended.endedWith {s u : State} {k : CtxId} {r : Result} {named : FourSet} (h : Ended s u k r named) :
    u.endedWith k r := by
  refine ⟨?_, ?_, ?_, ?_, h.owns_nothing⟩
  all_goals
    rw [h.own]
    rfl

theorem sectionEnded_state (s : State) (c : Context) (r : Result) (named : FourSet) (b : SecId) :
    (s.sectionEnded c r named b).state = sectionAfter r (named.get b) := by
  unfold State.sectionEnded
  split
  · rfl
  · rfl

theorem Ended.section_state {s u : State} {k : CtxId} {r : Result} {named : FourSet} (h : Ended s u k r named)
    (b : SecId) : (u.section b).state =
      if (s.context k).set.get b = true then sectionAfter r (named.get b) else (s.section b).state := by
  rw [h.sections]
  split
  · exact sectionEnded_state s _ r named b
  · rfl

/-- An ending whose sections all take one state. -/
theorem Ended.ends {s u : State} {k : CtxId} {r : Result} {named : FourSet} {st : SectionState}
    (h : Ended s u k r named) (noDeferred : s.noDeferred) (state : ∀ b, sectionAfter r (named.get b) = st) :
    s.ends u k r st :=
  ⟨h.endedWith, fun b => by rw [h.section_state, state], h.recorder_eq noDeferred⟩

/-- The sections of a transfer that ends otherwise than by a completion keep what they record. -/
theorem Ended.section_outside {s u : State} {k : CtxId} {r : Result} {named : FourSet} (h : Ended s u k r named)
    {b : SecId} (outside : (s.context k).set.get b = false) : u.section b = s.section b := by
  rw [h.sections, outside]
  exact if_neg Bool.false_ne_true

/-- A result that makes the sections HELD leaves nothing to evaluate. -/
theorem endsQuietly_of_state {s : State} {c : Context} {r : Result} {named : FourSet}
    (not_armed : ∀ b, sectionAfter r (named.get b) ≠ .armed) : s.endsQuietly c r named := .inl fun b _ => not_armed b

/-- An event that ends a context, to its end. -/
theorem next_endContext {s : State} (t : State) (asg : State → State) {k : CtxId} {r : Result} {named : FourSet}
    (room : s.room (s.deferredCount + 1)) (quiet : s.endsQuietly (s.context k) r named) (steady : s.steadyBut k) :
    Ended s ((endContext asg k r named s).finish t) k r named :=
  (endContext_ended asg room quiet).finish t steady

theorem steadyBut_of_steady {s : State} (steady : s.steady) (k : CtxId) : s.steadyBut k := ⟨steady.1, fun j _ => steady.2 j⟩

/-! ## DISARM of a transfer (R93, R155) -/

theorem active_of_holder {s : State} {b : SecId} {k : CtxId} (holder : s.holder b = some k) :
    s.active k = true ∧ (s.context k).set.get b = true := by
  have found := List.find?_some holder
  exact Bool.and_eq_true_iff.1 found

theorem onDisarm_active {s : State} {k : CtxId} (asg : State → State) (named : FourSet) (active : s.active k = true) :
    onDisarm asg k named s = endContext asg k .disarmed named s := if_pos active

theorem disarmOne_transferring {s : State} {w : Word} {b : SecId} {k : CtxId}
    (transferring : (s.section b).state = .transferring) (holder : s.holder b = some k) :
    State.disarmOne w s b = endContext assign k .disarmed (s.namedIn k w) s := by
  unfold State.disarmOne
  rw [transferring]
  dsimp only
  rw [holder]
  exact onDisarm_active assign _ (active_of_holder holder).1

theorem sectionAfter_disarmed (named : Bool) : sectionAfter .disarmed named ≠ .armed := by
  cases named <;> decide

/-- Settles O31: a DISARM of one section of a transfer ends it DISARMED. -/
theorem disarmEndsATransfer : Obligations.DisarmEndsATransfer := by
  intro s t a b k granted ht hclass guarding named transferring holder steady noMarks
  obtain ⟨active, inside⟩ := active_of_holder holder
  have one : State.disarmOne a.data (t.storeWord a.addr 0) b =
      endContext assign k .disarmed (t.namedIn k a.data) (t.storeWord a.addr 0) :=
    disarmOne_transferring (s := t.storeWord a.addr 0) transferring holder
  have ended := endContext_ended (s := t.storeWord a.addr 0) assign (k := k) (r := .disarmed)
    (named := t.namedIn k a.data) (room_of_noMarks noMarks _) (endsQuietly_of_state fun b => sectionAfter_disarmed _)
  have left : (allFours.filter fun c => ((t.storeWord a.addr 0).section c).state == .queued &&
      ((endContext assign k .disarmed (t.namedIn k a.data) (t.storeWord a.addr 0)).section c).state == .armed) = [] := by
    refine List.filter_eq_nil_iff.2 fun c _ => ?_
    rw [Bool.and_eq_true, beq_iff_eq, beq_iff_eq, ended.section_state]
    rintro ⟨queued, armed⟩
    split at armed
    · exact sectionAfter_disarmed _ armed
    · rw [queued] at armed
      cases armed
  have disarms : (t.storeWord a.addr 0).disarm a.data =
      endContext assign k .disarmed (t.namedIn k a.data) (t.storeWord a.addr 0) := by
    rw [disarm_guarding (s := t.storeWord a.addr 0) _ guarding, named, List.foldl_cons, List.foldl_nil, one, left,
      evaluate_nil]
  have whole := ended.finish (t.storeWord a.addr 0) (steadyBut_of_steady (s := t.storeWord a.addr 0) (steady.of rfl rfl) k)
  obtain ⟨state, result, _, _, owns⟩ := whole.endedWith
  have row := exec_disarm_granted granted ht hclass
  rw [disarms] at row
  generalize (endContext assign k .disarmed (t.namedIn k a.data) (t.storeWord a.addr 0)).finish
    (t.storeWord a.addr 0) = u at whole row state result owns
  have after : ∀ c, (u.section c).state = if (t.context k).set.get c = true then
      sectionAfter .disarmed ((t.namedIn k a.data).get c) else (t.section c).state := whole.section_state
  have named_get : ∀ c, (t.namedIn k a.data).get c = ((t.context k).set.get c && flag a.data c.val) := fun c => by
    unfold State.namedIn namedSet
    rw [Four.get_ofFn, Four.get_ofFn]
  have names : ∀ c, flag a.data c.val = true ↔ c = b := fun c => by
    rw [← mem_namedSections, named, List.mem_singleton]
  refine ⟨u, row, whole.image, state, result, owns, ?_, fun c mem ne => ?_, fun c outside => whole.section_outside outside⟩
  · rw [after, if_pos inside, named_get, inside, (names b).2 rfl]
    rfl
  · rw [after, if_pos mem, named_get, Bool.eq_false_iff.2 fun is => ne ((names c).1 is), Bool.and_false]
    rfl

end Sys2Proof.Machine
end

section
/-! PROOFS. The overlap limit and the sync window (R132, R133, R136, R139): each ends the transfer, its frame raised. -/

namespace Sys2Proof.Machine

/-! ## An ending seen from the state the event met -/

/-- An ending is the same from every state that differs in nothing the statement reads. -/
theorem ends_congr {s v u : State} {k : CtxId} {r : Result} {st : SectionState} (h : v.ends u k r st)
    (set : (v.context k).set = (s.context k).set) (sections : ∀ b, (v.section b).state = (s.section b).state)
    (recorder : v.recorder = s.recorder) (ms : v.ms = s.ms) (store : v.store = s.store) : s.ends u k r st := by
  obtain ⟨ended, states, raised⟩ := h
  refine ⟨ended, fun b => ?_, ?_⟩
  · rw [states b, set, sections]
  · rw [raised]
    unfold State.recordedEnd State.recorded State.attends
    rw [recorder, ms, store]

/-- A change of one context's record leaves the others as they were. -/
theorem steadyBut_of_set {s v : State} {k : CtxId} {c : Context} (steady : s.steadyBut k)
    (contexts : v.contexts = s.contexts.set k c) (freed : v.freed = s.freed) : v.steadyBut k := by
  refine ⟨by rw [State.settled, freed]; exact steady.1, fun j ne => ?_⟩
  unfold State.context
  rw [contexts, Three.get_set_ne _ ne]
  exact steady.2 j ne

theorem slotUnmarked_of_noMarks_of {s v : State} (noMarks : s.noMarks) (marks : v.recorder.marks = s.recorder.marks) :
    v.noMarks := fun k => by rw [marks]; exact noMarks k

theorem oldDevice_congr {s v : State} {c c' : Context} (store : v.store = s.store) (sources : c'.oldSources = c.oldSources)
    (tie : c'.oldTie = c.oldTie) : v.oldDevice c' = s.oldDevice c := by
  have incomer : v.incomerOf = s.incomerOf := by
    cases s; cases v; cases store; rfl
  unfold State.oldDevice Context.oneOldSource
  rw [sources, tie, incomer]

/-! ## The overlap limit (R139) -/

theorem exec_overlapExpiry_due {s : State} {k : CtxId} (active : s.active k = true)
    (timer : (s.context k).timer = some (.overlap, s.ms)) (phase : (s.context k).phase = .openingOld) :
    exec (.overlapExpiry k) s = .next ((endOverlap assign k true (s.stopTimer k)).finish s) := by
  show execOverlapExpiry k s = _
  unfold execOverlapExpiry
  rw [timerDue_of active timer, phase]
  rfl

theorem endOverlap_old {s t : State} {k : CtxId} {o : DevId} (asg : State → State)
    (queued : s.command k .opn (s.context k).routeDevice = t) (old : t.oldDevice (t.context k) = some o) :
    endOverlap asg k true s = endContext asg k .parallelLimit FourSet.none (t.raise (t.overlapIncident k o)) := by
  unfold endOverlap
  dsimp only
  rw [queued, old]

theorem owns_of_devices {s v : State} (store : v.store = s.store) (devices : v.devices = s.devices) {k : CtxId}
    {d : DevId} (own : s.owns k d = true) : v.owns k d = true := by
  rw [owns_congr store devices]
  exact own

/-! ## The sync window (R132, R133, R136) -/

theorem exec_syncWindowExpiry_due {s : State} {h : SyncHold} (hold : s.sync.hold = some h) (window : h.window = s.ms) :
    exec .syncWindowExpiry s = .next ((s.windowExpires h).finish s) := by
  show execSyncWindowExpiry s = _
  unfold execSyncWindowExpiry
  rw [hold]
  dsimp only
  rw [show (h.window == s.ms) = true by simp [window]]
  rfl

theorem releaseSync_held {s : State} {h : SyncHold} (hold : s.sync.hold = some h) :
    s.releaseSync = { s with
      contexts := s.contexts.set h.context (s.context h.context).unclaimed, sync := { s.sync with hold := none } } := by
  unfold State.releaseSync
  rw [hold]
  rfl

/-- Under ABANDON the timeout ends the holder, a close still queued cancelled (R136). -/
theorem onTimeout_abandon {s : State} {k : CtxId} (asg : State → State) (active : s.active k = true)
    (phase : (s.context k).phase = .syncWait ∨ (s.context k).phase = .closingParallel)
    (abandon : s.board.responses.openTransition = false) :
    onTimeout asg k s = endContext asg k .syncTimeout FourSet.none (s.cancelCloses k) := by
  unfold onTimeout
  dsimp only
  rw [if_pos, if_neg (by simp [abandon])]
  rcases phase with phase | phase <;> simp [active, phase]

/-- Settles O54: the overlap limit and the sync window end the transfer, its sections HELD. -/
theorem overlapAndSyncWindowEndTheTransfer : Obligations.OverlapAndSyncWindowEndTheTransfer := by
  refine ⟨fun s k d o c active context phase timer route own old noDeferred noMarks steady => ?_,
    fun s h c hold window active context phase abandon noDeferred noMarks steady => ?_⟩
  · subst context
    have stopped : (s.stopTimer k).context k = { s.context k with timer := none } := context_updContext _ _ _
    obtain ⟨D₁, marked₁, queued⟩ := command_shape (s := s.stopTimer k) .opn (owns_of_devices rfl rfl own)
    obtain ⟨v, hv⟩ : ∃ v : State, v = { s.stopTimer k with
      injections := joinInjection ((s.stopTimer k).injectionFor d .opn (.context k)) (s.stopTimer k).injections,
      dirty := D₁ } := ⟨_, rfl⟩
    rw [← hv] at queued
    have vcontext : v.context k = { s.context k with timer := none } := by rw [hv]; exact stopped
    have old_v : v.oldDevice (v.context k) = some o :=
      (oldDevice_congr (by rw [hv]; rfl) (by rw [vcontext]) (by rw [vcontext])).trans old
    have frame : v.overlapIncident k o = s.overlapIncident k o := by
      unfold State.overlapIncident
      rw [vcontext, hv]
      rfl
    have unmarked : v.slotUnmarked := (slotUnmarked_of_noMarks noMarks).of (by rw [hv]; rfl)
    have ends := endOverlap_old (s := s.stopTimer k) (t := v) assign (by rw [stopped]; exact (congrArg _ route).trans queued) old_v
    rw [frame, raise_recorded _ _ unmarked] at ends
    obtain ⟨x, hx⟩ : ∃ x : State, x = { v with
      recorder := v.recorded (s.overlapIncident k o), dirty := markList v.frameMarks v.dirty } := ⟨_, rfl⟩
    rw [← hx] at ends
    have xcontext : x.context k = { s.context k with timer := none } := by rw [hx]; exact vcontext
    have xmarks : x.noMarks := slotUnmarked_of_noMarks_of noMarks (by rw [hx, hv]; rfl)
    have xdeferred : x.noDeferred := by rw [hx, hv]; exact noDeferred
    have whole := next_endContext (s := x) s assign (k := k) (r := .parallelLimit) (named := FourSet.none)
      (room_of_noMarks xmarks _) (endsQuietly_of_state fun _ h => by cases h)
      (steadyBut_of_set (s := s) (k := k) (c := { s.context k with timer := none }) (steadyBut_of_steady steady k)
        (by rw [hx, hv]; rfl) (by rw [hx, hv]; rfl))
    obtain ⟨e, mem, device, code⟩ := whole.opens (s.injectionFor d .opn (.context k))
      (by rw [hx, hv]; exact mem_joinInjection_self _ _) rfl (xdeferred _)
    refine ⟨_, (exec_overlapExpiry_due active timer phase).trans (by rw [ends]), ?_, ⟨e, mem, device, code⟩, ?_⟩
    · refine ends_congr (whole.ends xdeferred fun _ => rfl) ?_ (fun b => by rw [hx, hv]; rfl) ?_ ?_ ?_
      · rw [xcontext]
        rfl
      · rw [hx, hv]
        rfl
      · rw [hx, hv]
        rfl
      · rw [hx, hv]
        rfl
    · rw [whole.image, hx, hv]
      rfl
  · subst context
    obtain ⟨x, hx⟩ : ∃ x : State, x = { s with
      recorder := s.recorded (s.syncIncident h), dirty := markList s.frameMarks s.dirty } := ⟨_, rfl⟩
    obtain ⟨v, hv⟩ : ∃ v : State, v = { x with
      contexts := x.contexts.set h.context (x.context h.context).unclaimed, sync := { x.sync with hold := none } } :=
      ⟨_, rfl⟩
    have vcontext : v.context h.context = (s.context h.context).unclaimed := by
      rw [hv, hx]
      exact Three.get_set_same _ _ _
    obtain ⟨D, marked, cancelled⟩ := cancelCloses_shape v h.context
    obtain ⟨y, hy⟩ : ∃ y : State, y = { v with
      injections := v.injections.filter fun e => !(e.code == .cls && e.owner == .context h.context), dirty := D } :=
      ⟨_, rfl⟩
    have expires : s.windowExpires h = endContext assign h.context .syncTimeout FourSet.none y := by
      unfold State.windowExpires
      rw [raise_recorded _ _ (slotUnmarked_of_noMarks noMarks), ← hx, releaseSync_held (s := x) (h := h) (by rw [hx]; exact hold),
        ← hv, onTimeout_abandon, cancelled, hy]
      · unfold State.active
        rw [vcontext]
        exact active
      · rw [vcontext]
        exact phase
      · rw [hv, hx]
        exact abandon
    have ycontext : y.context h.context = (s.context h.context).unclaimed := by rw [hy]; exact vcontext
    have ymarks : y.noMarks := slotUnmarked_of_noMarks_of noMarks (by rw [hy, hv, hx]; rfl)
    have ydeferred : y.noDeferred := by rw [hy, hv, hx]; exact noDeferred
    have whole := next_endContext (s := y) s assign (k := h.context) (r := .syncTimeout) (named := FourSet.none)
      (room_of_noMarks ymarks _) (endsQuietly_of_state fun _ h => by cases h)
      (steadyBut_of_set (s := s) (k := h.context) (c := (s.context h.context).unclaimed)
        (steadyBut_of_steady steady h.context) (by rw [hy, hv, hx]; rfl) (by rw [hy, hv, hx]))
    rw [← expires] at whole
    have released := whole.hold (by rw [hy, hv])
    refine ⟨_, exec_syncWindowExpiry_due hold window, released, by rw [State.syen, released]; rfl,
      ends_congr (whole.ends ydeferred fun _ => rfl) ?_ (fun b => by rw [hy, hv, hx]; rfl) ?_ ?_ ?_, ?_⟩
    · rw [ycontext]
      rfl
    · rw [hy, hv, hx]
      rfl
    · rw [hy, hv, hx]
      rfl
    · rw [hy, hv, hx]
      rfl
    · rw [whole.image, hy, hv, hx]

end Sys2Proof.Machine
end

section
/-! PROOFS. The islands (R6), and the SUPPLY that a source loss queues (R82, R96, R98, R99). -/

namespace Sys2Proof.Machine

/-! ## Islands (R6) -/

theorem sameIsland_iff (s : State) (cl : DevId → Bool) (a b : SecId) :
    s.sameIsland cl a b = true ↔ ∀ t : TieId, min a.val b.val ≤ t.val → t.val < max a.val b.val → s.joined cl t = true := by
  have every : ∀ t : TieId, t ∈ allTies := by decide
  unfold State.sameIsland
  rw [List.all_eq_true]
  refine ⟨fun all t lower upper => ?_, fun all t _ => ?_⟩
  · have here := all t (every t)
    simpa [lower, upper] using here
  · by_cases inside : min a.val b.val ≤ t.val ∧ t.val < max a.val b.val
    · simp [all t inside.1 inside.2]
    · simp only [Bool.or_eq_true, Bool.not_eq_true', Bool.and_eq_false_iff, decide_eq_false_iff_not]
      exact .inl (Decidable.not_and_iff_not_or_not.1 inside)

theorem sameIsland_refl (s : State) (cl : DevId → Bool) (a : SecId) : s.sameIsland cl a a = true :=
  (sameIsland_iff s cl a a).2 fun t lower upper => by omega

theorem sameIsland_symm {s : State} {cl : DevId → Bool} {a b : SecId} (h : s.sameIsland cl a b = true) :
    s.sameIsland cl b a = true :=
  (sameIsland_iff s cl b a).2 fun t lower upper => (sameIsland_iff s cl a b).1 h t (by omega) (by omega)

theorem sameIsland_trans {s : State} {cl : DevId → Bool} {a b c : SecId} (h : s.sameIsland cl a b = true)
    (g : s.sameIsland cl b c = true) : s.sameIsland cl a c = true :=
  (sameIsland_iff s cl a c).2 fun t lower upper => by
    by_cases first : min a.val b.val ≤ t.val ∧ t.val < max a.val b.val
    · exact (sameIsland_iff s cl a b).1 h t first.1 first.2
    · exact (sameIsland_iff s cl b c).1 g t (by omega) (by omega)

theorem mem_reach (s : State) (cl : DevId → Bool) (x : FourSet) (b : SecId) :
    (s.reach cl x).get b = true ↔ ∃ a, x.get a = true ∧ s.sameIsland cl a b = true := by
  have every : ∀ a : SecId, a ∈ allFours := by decide
  unfold State.reach
  rw [Four.get_ofFn, List.any_eq_true]
  exact ⟨fun ⟨a, _, is⟩ => ⟨a, Bool.and_eq_true_iff.1 is⟩, fun ⟨a, is⟩ => ⟨a, every a, Bool.and_eq_true_iff.2 is⟩⟩

theorem mem_singleSection (a b : SecId) : (singleSection b).get a = true ↔ a = b := by
  revert a b
  decide

theorem mem_island (s : State) (b c : SecId) :
    (s.island b).get c = true ↔ s.sameIsland s.countedClosed b c = true := by
  unfold State.island
  rw [mem_reach]
  refine ⟨fun ⟨a, single, same⟩ => ?_, fun same => ⟨b, (mem_singleSection b b).2 rfl, same⟩⟩
  rwa [(mem_singleSection a b).1 single] at same

theorem mem_island_self (s : State) (b : SecId) : (s.island b).get b = true := (mem_island s b b).2 (sameIsland_refl s _ b)

/-- Two sections of one island have one island. -/
theorem island_eq_of_mem {s : State} {b c : SecId} (mem : (s.island b).get c = true) : s.island c = s.island b := by
  have same := (mem_island s b c).1 mem
  refine Four.ext_get fun d => Bool.eq_iff_iff.2 ?_
  rw [mem_island, mem_island]
  exact ⟨sameIsland_trans same, sameIsland_trans (sameIsland_symm same)⟩

theorem reach_island (s : State) (b : SecId) : s.reach s.countedClosed (s.island b) = s.island b := by
  refine Four.ext_get fun c => Bool.eq_iff_iff.2 ?_
  rw [mem_reach, mem_island]
  refine ⟨fun ⟨a, mem, same⟩ => sameIsland_trans ((mem_island s b a).1 mem) same, fun same => ⟨b, mem_island_self s b, same⟩⟩

theorem setSupply_island (s : State) (b : SecId) : s.setSupply (s.island b) = s.supply b := by
  unfold State.setSupply
  rw [reach_island]
  rfl

theorem mem_islandLeads (s : State) (b : SecId) : b ∈ s.islandLeads ↔ (s.island b).lowest = b := by
  have every : b ∈ allFours := by revert b; decide
  simp [State.islandLeads, every]

theorem nodup_islandLeads (s : State) : s.islandLeads.Nodup := List.Pairwise.filter _ (by decide)

/-- The one lead of the islands that hold a lead is that lead. -/
theorem leadsOf_lead {s : State} {b : SecId} (lead : b ∈ s.islandLeads) : s.leadsOf [b] = [b] := by
  have only : ∀ l, l ∈ s.leadsOf [b] ↔ l = b := fun l => by
    unfold State.leadsOf
    rw [List.mem_filter]
    simp only [List.any_cons, List.any_nil, Bool.or_false]
    refine ⟨fun ⟨leads, holds⟩ => ?_, fun is => by rw [is]; exact ⟨lead, mem_island_self s b⟩⟩
    rw [← (mem_islandLeads s l).1 leads, ← island_eq_of_mem holds, (mem_islandLeads s b).1 lead]
  have nodup : (s.leadsOf [b]).Nodup := List.Pairwise.filter _ (nodup_islandLeads s)
  match leads : s.leadsOf [b] with
  | [] =>
    rw [leads] at only
    exact absurd ((only b).2 rfl) List.not_mem_nil
  | [l] =>
    rw [leads] at only
    rw [(only l).1 List.mem_cons_self]
  | l :: m :: ls =>
    rw [leads] at only nodup
    have first := (only l).1 List.mem_cons_self
    have second := (only m).1 (List.mem_cons_of_mem _ List.mem_cons_self)
    exact absurd (List.nodup_cons.1 nodup).1 (by simp [first, second])

/-! ## A SUPPLY on an empty queue (R96, R99) -/

theorem evaluateN_nil (asg : State → State) (n : Nat) (cause : Option Slot) (s : State) :
    evaluateN asg n cause [] s = s := by
  cases n with
  | zero => rfl
  | succ n =>
    have none : s.leadsOf [] = [] := List.filter_eq_nil_iff.2 (by simp)
    unfold evaluateN
    rw [none]
    rfl

/-- A SUPPLY placed on an empty queue, where no request is taken. -/
theorem placeSupply_closed {s : State} (n : Nat) (e : Request) (empty : s.queue = []) (closed : s.takingClosed) :
    ∃ D S, (∀ off ∈ s.dirty, off ∈ D) ∧
      (∀ c, S.get c = if e.set.get c = true then { s.section c with state := .queued } else s.section c) ∧
      s.placeSupply assign (evaluateN assign n none) e = { s with sections := S, queue := [e], dirty := D } := by
  obtain ⟨D, S, marked, sections, joined⟩ := joined_shape s e
  refine ⟨D, S, marked, sections, ?_⟩
  have out : leftOut e [] = [] := List.filter_eq_nil_iff.2 (by simp)
  have queued : (s.setQueue (joinSupply e s.queue)).queueSections e = { s with sections := S, queue := [e], dirty := D } := by
    rw [show joinSupply e s.queue = s.queue ++ [e] by rw [empty]; rfl, joined, empty]
    rfl
  unfold State.placeSupply
  dsimp only
  rw [queued, empty, out, evaluateN_nil]
  exact assign_closed closed

/-- The SUPPLY that the evaluation of an island queues (R96). -/
def State.supplyRequest (s : State) (b : SecId) (cause : Option Slot) : Request :=
  { lead := b, set := s.island b, kind := .supply, transition := .opn, target := none, cause := cause, offered := 0 }

/-- What the evaluation of an island that needs supply asks for: its sections are ARMED and unlocked. -/
theorem evaluate_supplies {s : State} {b : SecId} (cause : Option Slot) (lead : b ∈ s.islandLeads)
    (needs : s.needsSupply (s.island b) = true)
    (armed : ∀ c, (s.island b).get c = true → (s.section c).state = .armed ∧ s.isLocked c = false) :
    s.evaluate assign cause [b] = s.placeSupply assign (evaluateN assign 4 none) (s.supplyRequest b cause) := by
  have free : (FourSet.toList (s.island b)).any s.inHand = false := by
    rw [List.any_eq_false]
    intro c mem
    have state := (armed c ((FourSet.mem_toList _ _).1 mem)).1
    simp [State.inHand, State.queuedUnder, state]
  have open_ : (FourSet.toList (s.island b)).all s.suppliable = true := by
    rw [List.all_eq_true]
    intro c mem
    obtain ⟨state, unlocked⟩ := armed c ((FourSet.mem_toList _ _).1 mem)
    simp [State.suppliable, state, unlocked]
  unfold State.evaluate
  show evaluateN assign (4 + 1) cause [b] s = _
  unfold evaluateN
  rw [leadsOf_lead lead, List.foldl_cons, List.foldl_nil]
  dsimp only
  rw [needs, free, open_, (mem_islandLeads s b).1 lead]
  rfl

/-! ## A source loss under TRANSFER (R82) -/

theorem tellLost_idle {s : State} (n : SrcId) (idle : s.noTransfer) : s.tellLost n = s := tellLost_nobody n idle

theorem fedIslands_congr {s v : State} (store : v.store = s.store) (devices : v.devices = s.devices) (n : SrcId) :
    v.fedIslands n = s.fedIslands n := by
  have islands : v.island = s.island := funext fun b => island_congr (s := s) (u := v) store devices b
  have supplies : v.supply = s.supply := funext fun b => by
    unfold State.supply
    rw [islands, supplyOf_congr (s := s) (u := v) store devices]
  unfold State.fedIslands State.islandLeads
  rw [islands, supplies]

theorem mem_fedIslands {s : State} {n : SrcId} {b : SecId} (mem : b ∈ s.fedIslands n) :
    b ∈ s.islandLeads ∧ s.supply b = .fed n := by
  obtain ⟨lead, fed⟩ := List.mem_filter.1 mem
  exact ⟨lead, beq_iff_eq.1 fed⟩

/-- Settles O44: a source lost under TRANSFER queues a SUPPLY for the island it fed. -/
theorem sourceLossQueuesASupply : Obligations.SourceLossQueuesASupply := by
  intro s n b dip ride transfer fed armed empty closed idle steady unmarked
  obtain ⟨v, hv⟩ : ∃ v, v = s.lost n := ⟨_, rfl⟩
  have lost := hv.trans (lost_eq n unmarked)
  have store : v.store = s.store := by rw [lost]
  have devices : v.devices = s.devices := by rw [lost]
  have told : (s.lost n).tellLost n = v := by
    rw [← hv]
    exact tellLost_idle n (by rw [lost]; exact idle)
  have fed_v : v.fedIslands n = [b] := (fedIslands_congr store devices n).trans fed
  obtain ⟨lead, supply⟩ := mem_fedIslands (s := v) (n := n) (b := b) (by rw [fed_v]; exact List.mem_cons_self)
  have island : v.island b = s.island b := island_congr store devices b
  have failed : (v.source n).state = .failed := by
    rw [lost]
    unfold State.source
    rw [Four.get_set_same]
  have needs : v.needsSupply (v.island b) = true := by
    unfold State.needsSupply
    rw [setSupply_island, supply]
    exact beq_iff_eq.2 failed
  have transfer_v : v.board.responses.lossTransfer = true := by
    rw [State.board, store]
    exact transfer
  have same : v.supplyRequest b (some s.recorder.index) = s.supplyRequest b (some s.recorder.index) := by
    unfold State.supplyRequest
    rw [island]
  have expires : s.rideExpires n =
      v.placeSupply assign (evaluateN assign 4 none) (s.supplyRequest b (some s.recorder.index)) := by
    rw [rideExpires_eq, told, if_pos transfer_v, fed_v, evaluate_supplies _ lead needs, same]
    rw [island, lost]
    exact armed
  obtain ⟨D₁, S, marked₁, sections, placed⟩ := placeSupply_closed (s := v) 4
    (s.supplyRequest b (some s.recorder.index)) (by rw [lost]; exact empty) (by rw [lost]; exact closed)
  obtain ⟨w, hw⟩ : ∃ w : State, w = { v with
      sections := S, queue := [s.supplyRequest b (some s.recorder.index)], dirty := D₁ } := ⟨_, rfl⟩
  obtain ⟨D, _, ended⟩ := next_finish (t := s) (u := w) (marks := []) steady (fun _ mem => by cases mem)
    (by rw [hw, lost]) (by rw [hw, lost])
  refine ⟨{ w with dirty := D }, ?_, ?_, ?_, fun c => ?_, ?_, ?_, ?_, ?_⟩
  · rw [exec_rideThroughExpiry_due dip ride, expires, placed, ← hw]
    exact ended
  · rw [hw]
    exact failed
  · rw [hw]
    rfl
  · rw [hw]
    show (S.get c).state = _
    rw [sections, lost]
    show (if (s.island b).get c = true then _ else _ : Section).state = _
    split
    · rfl
    · rfl
  · rw [hw, lost]
  · rw [hw, lost]
  · rw [hw, lost]
  · rw [hw, lost]

end Sys2Proof.Machine
end

section
/-! PROOFS. A raised frame (R168 to R172): the slot it takes, the fields of its words, and the fields of a TRANSFER_END
frame (R125). -/

namespace Sys2Proof.Machine

/-! ## The slot (R168) -/

/-- The reuse of a slot frees a context and touches no word of the log (R173). -/
theorem reuseSlot_recorder (s : State) (i : Slot) :
    (s.reuseSlot i).recorder.log = s.recorder.log ∧ (s.reuseSlot i).recorder.index = s.recorder.index ∧
      (s.reuseSlot i).recorder.attention = s.recorder.attention ∧ (s.reuseSlot i).ms = s.ms := by
  unfold State.reuseSlot
  split
  · unfold State.freeContext
    rw [markAll_eq]
    exact ⟨rfl, rfl, rfl, rfl⟩
  · exact ⟨rfl, rfl, rfl, rfl⟩

theorem attends_congr {s u : State} (store : u.store = s.store) (c : IncidentClass) : u.attends c = s.attends c := by
  unfold State.attends
  rw [store]

/-- What a frame leaves in the recorder, whether its slot carries a mark or not. -/
theorem raise_recorder (s : State) (i : Incident) :
    (s.raise i).recorder.log = s.recorder.log.writeAll (8 * s.recorder.index.toNat) (i.words s.ms) ∧
      (s.raise i).recorder.index = s.recorder.index + 1 ∧
      (s.raise i).recorder.attention =
        if s.attends i.cls then s.recorder.attention ||| BitVec.ofNat 11 (2 ^ i.cls.code) else s.recorder.attention := by
  obtain ⟨log, _, attention, ms⟩ := reuseSlot_recorder s s.recorder.index
  have attends := attends_congr (reuseSlot_same s s.recorder.index).1 i.cls
  unfold State.raise
  dsimp only
  rw [markAll_eq]
  dsimp only
  rw [log, attention, ms, attends]
  exact ⟨rfl, rfl, rfl⟩

theorem raise_marks_dirty (s : State) (i : Incident) : ∀ off ∈ s.frameMarks, off ∈ (s.raise i).dirty := fun off mem => by
  unfold State.raise
  exact (mem_markAll _ _ off).2 (.inr mem)

theorem length_words (i : Incident) (ms : Ms) : (i.words ms).length = 8 := rfl

/-- Eight words written to a slot stand there, and no other word of the log changes. -/
theorem read_slot {m : Memory} {ws : List Word} (wf : m.wf = true) (eight : ws.length = 8) (base : Nat) :
    (∀ j, j < 8 → (m.writeAll base ws).read (base + j) = ws.getD j 0) ∧
      ∀ x, ¬(base ≤ x ∧ x < base + 8) → (m.writeAll base ws).read x = m.read x := by
  constructor
  · intro j lt
    rw [Memory.read_writeAll _ _ _ _ wf, if_pos (Nat.le_add_right _ _), Nat.add_sub_cancel_left,
      List.getElem?_eq_getElem (by omega)]
    simp [List.getD, List.getElem?_eq_getElem (show j < ws.length by omega)]
  · intro x outside
    rw [Memory.read_writeAll _ _ _ _ wf]
    by_cases above : base ≤ x
    · rw [if_pos above, List.getElem?_eq_none (by omega)]
    · rw [if_neg above]

/-! ## Fields of a word (12.6) -/

theorem field_ofNat (n lo len : Nat) : field (BitVec.ofNat 16 n) lo len = n % 65536 / 2 ^ lo % 2 ^ len := by
  unfold field
  rw [BitVec.extractLsb'_toNat, BitVec.toNat_ofNat, Nat.shiftRight_eq_div_pow]

theorem getLsbD_ofNat16 (n : Nat) {i : Nat} (lt : i < 16) :
    (BitVec.ofNat 16 n).getLsbD i = decide (n / 2 ^ i % 2 = 1) := by
  rw [BitVec.getLsbD_ofNat, Nat.testBit_eq_decide_div_mod_eq]
  simp [lt]

theorem codeOr_le {n noneCode : Nat} (le : n ≤ noneCode) (i : Option (Fin n)) : codeOr noneCode i ≤ noneCode := by
  cases i with
  | none => exact Nat.le_refl _
  | some i => exact Nat.le_trans (Nat.le_of_lt i.isLt) le

/-- The code of an incident's detail, 0 for none. -/
def detailCode (i : Incident) : Nat := match i.detail with | some d => d.code | none => 0

theorem class_code_lt (c : IncidentClass) : c.code < 16 := by cases c <;> decide

theorem detail_code_lt (i : Incident) : detailCode i < 16 := by
  unfold detailCode
  cases i.detail with
  | none => decide
  | some d => cases d <;> decide

/-- The word of a frame that names its class and detail. -/
theorem fields_class_word {cls detail : Nat} (cls_lt : cls < 16) (detail_lt : detail < 16) :
    field (BitVec.ofNat 16 (cls + 16 * detail)) 0 4 = cls ∧
      field (BitVec.ofNat 16 (cls + 16 * detail)) 4 8 = detail ∧ field (BitVec.ofNat 16 (cls + 16 * detail)) 12 4 = 0 := by
  simp only [field_ofNat]
  omega

/-- The word of a frame that names its section, device, source and context. -/
theorem fields_place_word {sec dev src ctx : Nat} (sec_le : sec ≤ 7) (dev_le : dev ≤ 31) (src_le : src ≤ 7)
    (ctx_le : ctx ≤ 7) (w : Word) (hw : w = BitVec.ofNat 16 (sec + 8 * dev + 256 * src + 2048 * ctx)) :
    field w 0 3 = sec ∧ field w 3 5 = dev ∧ field w 8 3 = src ∧ field w 11 3 = ctx ∧ field w 14 2 = 0 := by
  subst hw
  simp only [field_ofNat]
  omega

theorem cause_word (cause : Option Slot) :
    (BitVec.ofNat 16 (match cause with | some c => c.toNat | none => 63)).toNat =
      match cause with | some x => x.toNat | none => 63 := by
  cases cause with
  | none => rfl
  | some c =>
    show (BitVec.ofNat 16 c.toNat).toNat = c.toNat
    rw [BitVec.toNat_ofNat]
    exact Nat.mod_eq_of_lt (Nat.lt_of_lt_of_le c.isLt (by decide))

/-! ## The fields of a TRANSFER_END frame (R125) -/

theorem result_code_lt (r : Result) : r.code < 16 := by cases r <;> decide

theorem kind_code_lt (k : Kind) : k.code < 4 := by cases k <;> decide

theorem transition_code (t : Transition) : t.code = bit (t == .closed) := by cases t <;> rfl

theorem bit_le (b : Bool) : bit b ≤ 1 := by cases b <;> decide

theorem bit_eq_one (b : Bool) : decide (bit b = 1) = b := by cases b <;> rfl

theorem routeCode_lt (r : Option Route) : routeCode r < 16 := by
  match r with
  | none => decide
  | some .tieLeft => decide
  | some .tieRight => decide
  | some (.source n) =>
    show n.val + 1 < 16
    omega

/-- The word of a TRANSFER_END frame that names the result and the routes. -/
theorem fields_end_word {result kind from_ to_ : Nat} {converted closed : Bool} (result_lt : result < 16) (kind_lt : kind < 4)
    (from_lt : from_ < 16) (to_lt : to_ < 16) (w : Word)
    (hw : w = BitVec.ofNat 16 (result + 16 * kind + 64 * bit converted + 128 * bit closed + 256 * from_ + 4096 * to_)) :
    field w 0 4 = result ∧ field w 4 2 = kind ∧ w.getLsbD 6 = converted ∧ w.getLsbD 7 = closed ∧ field w 8 4 = from_ ∧
      field w 12 4 = to_ := by
  have converted_le := bit_le converted
  have closed_le := bit_le closed
  subst hw
  rw [getLsbD_ofNat16 _ (by decide), getLsbD_ofNat16 _ (by decide)]
  simp only [field_ofNat]
  refine ⟨by omega, by omega, ?_, ?_, by omega, by omega⟩
  · exact (decide_eq_decide.2 (by omega)).trans (bit_eq_one converted)
  · exact (decide_eq_decide.2 (by omega)).trans (bit_eq_one closed)

/-- The one member of a set of sources that has exactly one. -/
theorem oneOldSource_eq_some {c : Context} {n : SrcId} (only : ∀ m, c.oldSources.get m = true ↔ m = n) :
    c.oneOldSource = some n := by
  have alone : FourSet.toList c.oldSources = [n] := by
    generalize c.oldSources = x at only
    obtain ⟨e0, e1, e2, e3⟩ := x
    revert n e0 e1 e2 e3
    decide
  unfold Context.oneOldSource
  rw [alone]

theorem oneOldSource_eq_none {c : Context} (many : ∀ n, ¬∀ m, c.oldSources.get m = true ↔ m = n) :
    c.oneOldSource = none := by
  have other : ∀ x : FourSet, (∀ n : SrcId, ¬∀ m, x.get m = true ↔ m = n) →
      ∀ n : SrcId, FourSet.toList x ≠ [n] := by
    rintro ⟨e0, e1, e2, e3⟩
    revert e0 e1 e2 e3
    decide
  unfold Context.oneOldSource
  split
  · next n alone => exact absurd alone (other _ many n)
  · rfl

theorem fromRoute_source {s : State} {c : Context} {n : SrcId} (one : c.oneOldSource = some n) :
    s.fromRoute c = some (.source n) := by
  unfold State.fromRoute
  rw [one]

theorem fromRoute_tie {s : State} {c : Context} {d : DevId} {x : TieId} (many : c.oneOldSource = none)
    (old : c.oldTie = some d) (kind : s.kindOf d = .tie x) :
    s.fromRoute c =
      if x.val < c.set.lowest.val then some .tieLeft else if c.set.highest.val ≤ x.val then some .tieRight else none := by
  unfold State.fromRoute
  rw [many, old]
  dsimp only
  rw [kind]

theorem fromRoute_none {s : State} {c : Context} (many : c.oneOldSource = none) (old : c.oldTie = none) :
    s.fromRoute c = none := by
  unfold State.fromRoute
  rw [many, old]

/-! ## A set of devices in a word -/

theorem fourBits_lt (x : FourSet) : fourBits x < 16 := by
  obtain ⟨e0, e1, e2, e3⟩ := x
  revert e0 e1 e2 e3
  decide

theorem fourBits_div (x : FourSet) (c : Fin 4) : decide (fourBits x / 2 ^ c.val % 2 = 1) = x.get c := by
  obtain ⟨e0, e1, e2, e3⟩ := x
  revert c e0 e1 e2 e3
  decide

/-- Row r of a set of devices, read back from its number. -/
theorem deviceBits_row (x : DevSet) (r : Fin 4) : deviceBits x / 16 ^ r.val % 16 = fourBits (x.rows.get r) := by
  have b0 := fourBits_lt x.rows.e0
  have b1 := fourBits_lt x.rows.e1
  have b2 := fourBits_lt x.rows.e2
  have b3 := fourBits_lt x.rows.e3
  unfold deviceBits
  match r with
  | 0 => show _ / 16 ^ 0 % 16 = fourBits x.rows.e0; omega
  | 1 => show _ / 16 ^ 1 % 16 = fourBits x.rows.e1; omega
  | 2 => show _ / 16 ^ 2 % 16 = fourBits x.rows.e2; omega
  | 3 => show _ / 16 ^ 3 % 16 = fourBits x.rows.e3; omega

theorem getLsbD_deviceBits (x : DevSet) (d : DevId) : (BitVec.ofNat 16 (deviceBits x)).getLsbD d.val = x.get d := by
  have place : d.val = 4 * (rowOf d).val + (colOf d).val := by
    show d.val = 4 * (d.val / 4) + d.val % 4
    omega
  have small : (colOf d).val < 4 := (colOf d).isLt
  have row := deviceBits_row x (rowOf d)
  rw [getLsbD_ofNat16 _ d.isLt]
  show _ = (x.rows.get (rowOf d)).get (colOf d)
  rw [← fourBits_div, ← row, place, Nat.pow_add, Nat.pow_mul, ← Nat.div_div_eq_div_mul]
  refine decide_eq_decide.2 ?_
  generalize deviceBits x / (2 ^ 4) ^ (rowOf d).val = n
  show n / 2 ^ (colOf d).val % 2 = 1 ↔ n % 16 / 2 ^ (colOf d).val % 2 = 1
  match (colOf d).val, small with
  | 0, _ => omega
  | 1, _ => omega
  | 2, _ => omega
  | 3, _ => omega

/-! ## The statement -/

theorem transferEnd_word (s : State) (k : CtxId) (r : Result) :
    (s.transferEnd k r).w5 = BitVec.ofNat 16 (r.code + 16 * (s.context k).kind.code + 64 * bit (s.context k).converted +
      128 * bit ((s.context k).transition == .closed) + 256 * routeCode (s.fromRoute (s.context k)) +
      4096 * routeCode (s.context k).target) := by
  rw [← transition_code]
  rfl

theorem transferEnd_source (s : State) (k : CtxId) (r : Result) :
    (s.transferEnd k r).src = match (s.context k).target with
      | none => none
      | some (.source n) => some n
      | some x => (s.neighbour (s.context k).set x).bind fun island => (s.supplyOf island).source := by
  show (s.context k).target.bind (s.routeSource (s.context k).set) = _
  cases (s.context k).target with
  | none => rfl
  | some x => cases x <;> rfl

/-- Settles O20: a raised frame takes its slot, and the words and codes of a frame. -/
theorem raisedFrameTakesItsSlot : Obligations.RaisedFrameTakesItsSlot := by
  refine ⟨fun s i wf => ?_, fun i ms => ?_, by decide, fun s k r c i context incident => ?_⟩
  · obtain ⟨log, index, attention⟩ := raise_recorder s i
    obtain ⟨inside, outside⟩ := read_slot wf (length_words i s.ms) (8 * s.recorder.index.toNat)
    rw [log]
    refine ⟨inside, outside, index, raise_marks_dirty s i, attention, fun unconfigured => ?_, fun b working => ?_⟩
    · unfold State.attends
      rw [unconfigured]
    · unfold State.attends
      rw [working]
  · obtain ⟨cls, detail, rest⟩ := fields_class_word (class_code_lt i.cls) (detail_code_lt i)
    obtain ⟨sec, dev, src, ctx, top⟩ := fields_place_word (codeOr_le (by decide : 4 ≤ 7) i.sec)
      (codeOr_le (by decide : 16 ≤ 31) i.dev) (codeOr_le (by decide : 4 ≤ 7) i.src)
      (codeOr_le (by decide : 3 ≤ 7) i.ctx) _ rfl
    refine ⟨_, _, _, rfl, cls, detail, rest, sec.trans ?_, dev.trans ?_, src.trans ?_, ctx.trans ?_, top, cause_word i.cause⟩
    · cases i.sec <;> rfl
    · cases i.dev <;> rfl
    · cases i.src <;> rfl
    · cases i.ctx <;> rfl
  · subst context incident
    obtain ⟨result, kind, converted, closed, from_, to_⟩ := fields_end_word (result_code_lt r)
      (kind_code_lt (s.context k).kind) (routeCode_lt (s.fromRoute (s.context k))) (routeCode_lt (s.context k).target) _
      (transferEnd_word s k r)
    refine ⟨rfl, rfl, rfl, rfl, rfl, rfl, transferEnd_source s k r, result, kind, converted, closed, to_, fun n only => ?_,
      fun d x many old tie => ⟨fun left => ?_, fun inside right => ?_⟩, fun many old => ?_, ?_,
      fun d => getLsbD_deviceBits _ d⟩
    · rw [from_, fromRoute_source (oneOldSource_eq_some only)]
      rfl
    · rw [from_, fromRoute_tie (oneOldSource_eq_none many) old tie, if_pos left]
      rfl
    · rw [from_, fromRoute_tie (oneOldSource_eq_none many) old tie, if_neg (Nat.not_lt.2 inside), if_pos right]
      rfl
    · rw [from_, fromRoute_none (oneOldSource_eq_none many) old]
      rfl
    · show (BitVec.ofNat 16 (min ((s.ms - (s.context k).start).toNat / 10) 65535)).toNat = _
      rw [BitVec.toNat_ofNat]
      exact Nat.mod_eq_of_lt (by omega)

end Sys2Proof.Machine
end

section
/-! PROOFS. A position word (R43, R45): what the Device Tracker leaves of the block before it tells the owner, and what it
tells; and the word of a device that no context owns. -/

namespace Sys2Proof.Machine

/-! ## The sections and the sources (R9, R84, R105) -/

/-- What a change of a device's observed position does to a section (R9, R105). -/
def Section.afterReport (x : Section) (b : SecId) (kind : DeviceKind) (d : DevId) (p : Position) : Section :=
  match kind, p with
  | .tie t, .opened => if x.borrow = some t then { x with borrow := none } else x
  | .feeder c, .closed => if c = b then { x with withheld := x.withheld.set d false } else x
  | _, _ => x

theorem afterReport_state (x : Section) (b : SecId) (kind : DeviceKind) (d : DevId) (p : Position) :
    (x.afterReport b kind d p).state = x.state := by
  unfold Section.afterReport
  split
  · split <;> rfl
  · split <;> rfl
  · rfl

theorem clearBorrow_eq (s : State) (t : TieId) (d : DevId) (b : SecId) :
    (if (s.section b).borrow = some t then s.setSection b { s.section b with borrow := none } else s) =
      { s with sections := s.sections.set b ((s.section b).afterReport b (.tie t) d .opened) } := by
  unfold Section.afterReport
  dsimp only
  by_cases here : (s.section b).borrow = some t
  · rw [if_pos here, if_pos here]
    rfl
  · rw [if_neg here, if_neg here]
    show s = { s with sections := s.sections.set b (s.sections.get b) }
    rw [Four.set_get]

theorem clearBorrows_shape (s : State) (t : TieId) (d : DevId) :
    ∃ S D, (∀ off ∈ s.dirty, off ∈ D) ∧ (∀ b, S.get b = (s.section b).afterReport b (.tie t) d .opened) ∧
      s.clearBorrows t = { s with sections := S, dirty := D } := by
  obtain ⟨S, D, marked, sections, cleared⟩ := foldl_sections_shape (s := s)
    (f := fun s b => if (s.section b).borrow = some t then s.setSection b { s.section b with borrow := none } else s)
    (g := fun b x => x.afterReport b (.tie t) d .opened)
    (fun S D b => ⟨D, fun _ mem => mem, clearBorrow_eq { s with sections := S, dirty := D } t d b⟩)
    (by decide : allFours.Nodup) s.sections s.dirty
  refine ⟨S, D, marked, fun b => ?_, cleared⟩
  rw [sections, if_pos (by revert b; decide)]
  rfl

theorem positionEffects_shape (s : State) (d : DevId) (p : Position) :
    ∃ S D, (∀ off ∈ s.dirty, off ∈ D) ∧ (∀ b, S.get b = (s.section b).afterReport b (s.kindOf d) d p) ∧
      s.positionEffects d p = { s with sections := S, dirty := D } := by
  unfold State.positionEffects
  split
  · next t kind =>
    rw [kind]
    exact clearBorrows_shape s t d
  · next b kind =>
    rw [kind]
    refine ⟨_, s.dirty, fun _ mem => mem, fun c => ?_, rfl⟩
    rw [Four.get_set]
    unfold Section.afterReport
    dsimp only
    by_cases own : c = b
    · rw [if_pos own, if_pos own.symm, own]
    · rw [if_neg own, if_neg (Ne.symm own)]
      rfl
  · next other_tie other_feeder =>
    refine ⟨s.sections, s.dirty, fun _ mem => mem, fun b => ?_, rfl⟩
    unfold Section.afterReport
    split
    · next t kind => exact absurd rfl (other_tie t kind)
    · next c kind => exact absurd rfl (other_feeder c kind)
    · rfl

/-- The state once a device's record has become y, before anyone is told (R9, R84, R105). -/
def State.reported (s : State) (d : DevId) (y : Device) : State :=
  if (s.device d).observed != y.observed then ((s.setDevice d y).positionEffects d y.observed).workOutDemands
  else s.setDevice d y

/-- The sections after a report. -/
def State.sectionReported (s : State) (d : DevId) (y : Device) (b : SecId) : Section :=
  if (s.device d).observed = y.observed then s.section b else (s.section b).afterReport b (s.kindOf d) d y.observed

/-- The sources after a report. -/
def State.sourceReported (s : State) (d : DevId) (y : Device) (n : SrcId) : Source :=
  if (s.device d).observed = y.observed then s.source n else ({ s with devices := s.devices.set d y }).demanded n

theorem reported_shape (s : State) (d : DevId) (y : Device) :
    ∃ S R D, (∀ off ∈ s.dirty, off ∈ D) ∧ (∀ b, S.get b = s.sectionReported d y b) ∧
      (∀ n, R.get n = s.sourceReported d y n) ∧
      s.reported d y = { s with devices := s.devices.set d y, sections := S, sources := R, dirty := D } := by
  unfold State.reported State.sectionReported State.sourceReported
  by_cases same : (s.device d).observed = y.observed
  · rw [if_neg (by simp [same])]
    simp only [if_pos same]
    exact ⟨s.sections, s.sources, s.dirty, fun _ mem => mem, fun _ => rfl, fun _ => rfl, rfl⟩
  · rw [if_pos (by simpa using same)]
    simp only [if_neg same]
    obtain ⟨S, D₁, marked₁, sections, effects⟩ := positionEffects_shape (s.setDevice d y) d y.observed
    rw [effects]
    obtain ⟨D, marked, demands⟩ := workOutDemands_shape { s.setDevice d y with sections := S, dirty := D₁ }
    rw [demands]
    exact ⟨S, _, D, fun off mem => marked off (marked₁ off mem), sections, fun n => Four.get_ofFn _ n, rfl⟩

theorem sectionReported_state (s : State) (d : DevId) (y : Device) (b : SecId) :
    (s.sectionReported d y b).state = (s.section b).state := by
  unfold State.sectionReported
  split
  · rfl
  · exact afterReport_state _ _ _ _ _

theorem sourceReported_state (s : State) (d : DevId) (y : Device) (n : SrcId) :
    (s.sourceReported d y n).state = (s.source n).state := by
  unfold State.sourceReported
  split
  · rfl
  · exact (demanded_same _ n).1

/-! ## What a word without a rise of the tripped indication does (R43, R45, R48) -/

/-- The owner of the device is told of the position. -/
def State.tellPosition (s : State) (d : DevId) (u : State) : State :=
  u.tell (s.ownerContext d) fun k => onPosition assign k d (s.device d).observed (s.countedClosed d) false

/-- Then it is told of a completed operation. -/
def State.tellCompleted (s : State) (d : DevId) (w : Word) (u : State) : State :=
  match (s.device d).completes (positionOf w) with
  | some c => u.tell (s.ownerContext d) fun k => onCompleted assign k d c
  | none => u

theorem takePosition_same {s : State} {d : DevId} {w : Word} (same : (s.device d).report w = s.device d) :
    s.takePosition d w = s := by
  unfold State.takePosition
  exact if_pos same

theorem rise_of_level {x : Device} {w : Word} (level : w.getLsbD 2 = false ∨ x.tripped = true) :
    ((x.report w).tripped && !x.tripped) = false := by
  show (w.getLsbD 2 && !x.tripped) = false
  rcases level with low | high
  · rw [low]
    rfl
  · rw [high]
    simp

theorem takePosition_level {s : State} {d : DevId} {w : Word} (changed : (s.device d).report w ≠ s.device d)
    (level : w.getLsbD 2 = false ∨ (s.device d).tripped = true) :
    s.takePosition d w = s.tellCompleted d w (s.tellPosition d (s.reported d ((s.device d).report w))) := by
  unfold State.takePosition
  dsimp only
  rw [if_neg changed, rise_of_level level]
  rfl

theorem reported_same {s : State} {d : DevId} {w : Word} (same : (s.device d).report w = s.device d) :
    s.reported d ((s.device d).report w) = s := by
  unfold State.reported
  rw [same, if_neg (by simp)]
  show { s with devices := s.devices.set d (s.devices.get d) } = s
  rw [Sixteen.set_get]

/-- A word of a device that no context owns is told to none. -/
theorem takePosition_free {s : State} {d : DevId} {w : Word} (level : w.getLsbD 2 = false ∨ (s.device d).tripped = true)
    (free : s.ownedByNoContext d) : s.takePosition d w = s.reported d ((s.device d).report w) := by
  by_cases same : (s.device d).report w = s.device d
  · rw [takePosition_same same, reported_same same]
  · rw [takePosition_level same level]
    unfold State.tellPosition State.tellCompleted
    rw [show s.ownerContext d = none from free]
    split <;> rfl

/-- A word of a device that a context owns is told to that context. -/
theorem takePosition_owned {s : State} {d : DevId} {w : Word} {k : CtxId}
    (changed : (s.device d).report w ≠ s.device d) (level : w.getLsbD 2 = false ∨ (s.device d).tripped = true)
    (owner : (s.device d).owner = .context k) :
    s.takePosition d w =
      match (s.device d).completes (positionOf w) with
      | some c => onCompleted assign k d c (onPosition assign k d (s.device d).observed (s.countedClosed d) false
          (s.reported d ((s.device d).report w)))
      | none => onPosition assign k d (s.device d).observed (s.countedClosed d) false
          (s.reported d ((s.device d).report w)) := by
  rw [takePosition_level changed level]
  unfold State.tellPosition State.tellCompleted
  rw [ownerContext_of_context owner]
  rfl

theorem exec_positionWord_granted {s t : State} {a : Access} {d : DevId} (granted : s.grantsWrite .f a)
    (ht : s.granted .f = t) (hclass : t.classify a.addr = .position d) :
    exec .positionWord s = .next (((t.storeWord a.addr a.data).takePosition d a.data).finish t) := by
  show execPositionWord s = _
  unfold execPositionWord
  rw [grantWrite_granted granted ht, hclass]
  rfl

/-! ## The word of a device that no context owns -/

theorem completes_eq_none {x : Device} {p : Position} (not_reached : ∀ c e, x.op = .inProgress c e → c.target ≠ p) :
    x.completes p = none := by
  unfold Device.completes
  cases op : x.op with
  | idle => rfl
  | inProgress c e => exact if_neg fun is => not_reached c e op is.symm

theorem report_op (x : Device) (w : Word) :
    (x.report w).op =
      match x.op with
      | .inProgress c e => if positionOf w = c.target then .idle else .inProgress c e
      | .idle => .idle := by
  show (if (x.completes (positionOf w)).isSome then Operation.idle else x.op) = _
  unfold Device.completes
  cases x.op with
  | idle => rfl
  | inProgress c e =>
    dsimp only
    by_cases reached : positionOf w = c.target
    · simp only [if_pos reached]
      rfl
    · simp only [if_neg reached]
      rfl

/-- The record that a word without a rise leaves, field by field. -/
theorem report_level {x : Device} {w : Word} (level : w.getLsbD 2 = false ∨ x.tripped = true) :
    x.report w = { x with
      observed := positionOf w, tripped := w.getLsbD 2, available := w.getLsbD 3,
      op := match x.op with
        | .inProgress c e => if positionOf w = c.target then .idle else .inProgress c e
        | .idle => .idle } := by
  have trip : (x.trip || (w.getLsbD 2 && !x.tripped)) = x.trip := by
    rw [show (w.getLsbD 2 && !x.tripped) = false from rise_of_level level, Bool.or_false]
  have op := report_op x w
  have record : x.report w =
      { x with observed := positionOf w, tripped := w.getLsbD 2, available := w.getLsbD 3, op := (x.report w).op,
               trip := x.trip || (w.getLsbD 2 && !x.tripped) } := rfl
  rw [record, trip, op]

theorem report_repeated {x : Device} {w : Word} (position : positionOf w = x.observed) (tripped : w.getLsbD 2 = x.tripped)
    (available : w.getLsbD 3 = x.available) (not_reached : ∀ c e, x.op = .inProgress c e → c.target ≠ x.observed) :
    x.report w = x := by
  have op : (match x.op with
      | .inProgress c e => if positionOf w = c.target then .idle else .inProgress c e
      | .idle => .idle) = x.op := by
    cases here : x.op with
    | idle => rfl
    | inProgress c e =>
      dsimp only
      rw [position, if_neg fun is => not_reached c e here is.symm]
  rw [report_level, op, position, tripped, available]
  rw [tripped]
  cases x.tripped <;> simp

/-- The section record after a report, as the statement writes it. -/
theorem sectionReported_eq (s : State) (d : DevId) (y : Device) (b : SecId) :
    s.sectionReported d y b =
      { state := (s.section b).state,
        borrow := (s.section b).borrow.filter fun x =>
          !(s.kindOf d == .tie x && y.observed == .opened && (s.device d).observed != .opened),
        withheld := Sixteen.ofFn fun f => (s.section b).withheld.get f &&
          !(f == d && s.kindOf d == .feeder b && y.observed == .closed && (s.device d).observed != .closed) } := by
  have keep_borrow : ∀ (x : Option TieId) (p : TieId → Bool), (∀ t, x = some t → p t = true) → x.filter p = x := by
    intro x p all
    cases x with
    | none => rfl
    | some t => exact Option.filter_some_pos (all t rfl)
  have keep_withheld : ∀ (x : DevSet) (p : DevId → Bool), (∀ f, x.get f = true → p f = true) →
      Sixteen.ofFn (fun f => x.get f && p f) = x := by
    intro x p all
    refine Sixteen.ext_get fun f => ?_
    rw [Sixteen.get_ofFn]
    cases here : x.get f with
    | false => rfl
    | true => rw [all f here]; rfl
  unfold State.sectionReported
  by_cases same : (s.device d).observed = y.observed
  · rw [if_pos same, keep_borrow, keep_withheld]
    · intro f _
      rw [same]
      cases y.observed <;> simp
    · intro t _
      rw [same]
      cases y.observed <;> simp
  · rw [if_neg same]
    unfold Section.afterReport
    split
    · next t kind position =>
      rw [keep_withheld]
      · split
        · next borrows =>
          rw [borrows, Option.filter_some_neg]
          rw [kind, position]
          rw [position] at same
          simp [same]
        · next apart =>
          rw [keep_borrow]
          intro x is
          rw [kind]
          have ne : t ≠ x := fun e => apart (by rw [is, e])
          simp [ne]
      · intro f _
        rw [position]
        simp
    · next c kind position =>
      rw [keep_borrow]
      · split
        · next own =>
          congr 1
          refine Sixteen.ext_get fun f => ?_
          rw [Sixteen.get_ofFn, Sixteen.get_set, kind, position]
          rw [position] at same
          by_cases this : f = d
          · simp [this, own, same]
          · simp [this]
        · next apart =>
          rw [keep_withheld]
          intro f _
          rw [kind]
          simp [apart]
      · intro x _
        rw [position]
        simp
    · next other_tie other_feeder =>
      rw [keep_borrow, keep_withheld]
      · intro f _
        have never : (s.kindOf d == .feeder b && y.observed == .closed) = false :=
          Bool.eq_false_iff.2 fun both => by
            obtain ⟨kind, position⟩ := Bool.and_eq_true_iff.1 both
            exact other_feeder b (beq_iff_eq.1 kind) (beq_iff_eq.1 position)
        rw [Bool.and_assoc (f == d), never, Bool.and_false, Bool.false_and, Bool.not_false]
      · intro t _
        have never : (s.kindOf d == .tie t && y.observed == .opened) = false :=
          Bool.eq_false_iff.2 fun both => by
            obtain ⟨kind, position⟩ := Bool.and_eq_true_iff.1 both
            exact other_tie t (beq_iff_eq.1 kind) (beq_iff_eq.1 position)
        rw [never, Bool.false_and, Bool.not_false]

theorem demanded_eq (s : State) (n : SrcId) :
    s.demanded n =
      if (s.sourceEntry n).generator = false then { s.source n with demand := false, cool := none }
      else if s.awaits n = true ∨ s.incomerClosed n = true then { s.source n with demand := true, cool := none }
      else if (s.source n).demand = true then
        { s.source n with demand := false, cool := some (s.ms + BitVec.ofNat 32 (s.sourceEntry n).coolDown) }
      else s.source n := by
  unfold State.demanded State.runDemand State.after
  cases (s.sourceEntry n).generator with
  | false => rfl
  | true => simp

/-- Settles O40: a position word of a device that no context owns. -/
theorem positionWordIsTaken : Obligations.PositionWordIsTaken := by
  refine ⟨fun s t a d granted ht hclass position tripped available not_reached steady => ?_,
    fun s t v a d p q reports free steady before hv => ?_⟩
  · rw [exec_positionWord_granted granted ht hclass,
      takePosition_same (s := t.storeWord a.addr a.data) (report_repeated position tripped available not_reached)]
    have stored : (t.storeWord a.addr a.data).steady := steady.of rfl rfl
    have same : (t.storeWord a.addr a.data).markChanged t = t.storeWord a.addr a.data :=
      markChanged_self (t.storeWord a.addr a.data)
    rw [finish_steady _ _ stored, same]
    rfl
  · obtain ⟨granted, ht, hclass, position, level⟩ := reports
    subst before
    obtain ⟨S, R, D₁, marked₁, sections, sources, reported⟩ :=
      reported_shape (t.storeWord a.addr a.data) d ((t.device d).report a.data)
    have record : (t.device d).report a.data = { t.device d with
        observed := p, tripped := a.data.getLsbD 2, available := a.data.getLsbD 3,
        op := match (t.device d).op with
          | .inProgress c e => if p = c.target then .idle else .inProgress c e
          | .idle => .idle } := by
      rw [report_level level, position]
    have devices : v = { t with devices := t.devices.set d ((t.device d).report a.data) } := by rw [record]; exact hv
    have observed : ((t.device d).report a.data).observed = p := position
    have row := exec_positionWord_granted granted ht hclass
    rw [takePosition_free (s := t.storeWord a.addr a.data) level free] at row
    rw [show (t.storeWord a.addr a.data).reported d (((t.storeWord a.addr a.data).device d).report a.data) = _
      from reported] at row
    obtain ⟨D, marked, ended⟩ := next_finish (t := t) (marks := t.dirty)
      (u := { t.storeWord a.addr a.data with
        devices := t.devices.set d ((t.device d).report a.data), sections := S, sources := R, dirty := D₁ })
      steady marked₁ rfl rfl
    refine ⟨D, S, R, marked, fun b => ?_, fun n => ?_, ?_⟩
    · rw [sections, sectionReported_eq, observed]
      rfl
    · rw [sources]
      show t.sourceReported d ((t.device d).report a.data) n = _
      unfold State.sourceReported
      by_cases same : p = (t.device d).observed
      · rw [observed, if_pos same, if_pos same.symm]
      · rw [observed, if_neg same, if_neg (Ne.symm same), demanded_eq, devices]
        rfl
    · rw [row, devices]
      exact ended

end Sys2Proof.Machine
end

section
/-! PROOFS. The end of the restore list (R121 to R123), and what the owner of a device does at a position word where the
word is none of a disturbance (R48). -/

namespace Sys2Proof.Machine

/-! ## The hand-overs (R9, R105, R123) -/

theorem feederOn_single (s : State) (b : SecId) (d : DevId) :
    s.feederOn (singleSection b) d = true ↔ s.kindOf d = .feeder b := by
  unfold State.feederOn
  cases s.kindOf d with
  | feeder a =>
    dsimp only
    rw [mem_singleSection]
    exact ⟨fun is => by rw [is], fun is => by cases is; rfl⟩
  | _ => exact ⟨fun is => (by cases is), fun is => (by cases is)⟩

theorem borrowAfter_left {c : Context} {t : TieId} (target : c.target = some .tieLeft)
    (border : t.val + 1 = c.set.lowest.val) : c.borrowAfter = some t := by
  unfold Context.borrowAfter
  rw [target]
  show leftBorder c.set = some t
  unfold leftBorder
  dsimp only
  rw [dif_pos (by omega)]
  congr 1
  exact Fin.ext (show c.set.lowest.val - 1 = t.val by omega)

theorem borrowAfter_right {c : Context} {t : TieId} (target : c.target = some .tieRight)
    (border : t.val = c.set.highest.val) : c.borrowAfter = some t := by
  unfold Context.borrowAfter
  rw [target]
  show rightBorder c.set = some t
  unfold rightBorder
  dsimp only
  rw [dif_pos (by omega)]
  congr 1
  exact Fin.ext border.symm

theorem borrowAfter_source {c : Context} {n : SrcId} (target : c.target = some (.source n)) : c.borrowAfter = none := by
  unfold Context.borrowAfter
  rw [target]

theorem kindOf_congr {s u : State} (store : u.store = s.store) (d : DevId) : u.kindOf d = s.kindOf d := by
  unfold State.kindOf State.entry State.board
  rw [store]

/-- A completed transfer hands its target route and its withheld feeders over to its sections. -/
theorem Ended.handsOver {s v u : State} {k : CtxId} {r : Result} {named : FourSet} {c : Context} {x : DevSet}
    (h : Ended v u k r named) (completed : r.completed = true) (store : v.store = s.store)
    (set : (v.context k).set = c.set) (target : (v.context k).target = c.target)
    (withheld : (v.context k).withheld = x) : s.handsOver u c x := by
  intro b inside
  have record := h.sections b
  rw [set, if_pos inside] at record
  unfold State.sectionEnded at record
  rw [if_pos completed] at record
  refine ⟨⟨fun n is => ?_, fun t is border => ?_, fun t is border => ?_⟩, fun d => ?_⟩
  · rw [record]
    exact borrowAfter_source (target.trans is)
  · rw [record]
    exact borrowAfter_left (target.trans is) (by rw [set]; exact border)
  · rw [record]
    exact borrowAfter_right (target.trans is) (by rw [set]; exact border)
  · rw [record]
    show (Sixteen.ofFn fun d => (v.context k).withheld.get d && v.feederOn (singleSection b) d).get d = true ↔ _
    rw [Sixteen.get_ofFn, Bool.and_eq_true, feederOn_single, withheld, kindOf_congr store]

/-! ## The end of the list -/

/-- The result of a transfer whose restore list has ended, `x` its withheld feeders (R123). -/
def restoreResult (x : DevSet) : Result := if DevSet.isEmpty x then .done else .doneWithheld

theorem restoreResult_completed (x : DevSet) : (restoreResult x).completed = true := by
  unfold restoreResult
  split <;> rfl

theorem sectionAfter_restored (x : DevSet) (named : Bool) : sectionAfter (restoreResult x) named = .armed := by
  unfold restoreResult
  split <;> rfl

theorem endRestore_eq (asg : State → State) (k : CtxId) (s : State) :
    endRestore asg k s = endContext asg k (restoreResult (s.context k).withheld) FourSet.none s := rfl

/-- The end of the restore list, to the end of its event. What the statement reads of the state is what s has. -/
theorem next_endRestore {s v : State} (before : State) (asg : State → State) {k : CtxId} {c : Context} {x : DevSet}
    (store : v.store = s.store) (ms : v.ms = s.ms) (recorder : v.recorder = s.recorder)
    (sections : ∀ b, (v.section b).state = (s.section b).state) (context : s.context k = c)
    (set : (v.context k).set = c.set) (target : (v.context k).target = c.target)
    (withheld : (v.context k).withheld = x) (noDeferred : v.noDeferred) (noMarks : s.noMarks)
    (nothing : v.nothingToEvaluate) (steady : v.steadyBut k) :
    s.ends ((endRestore asg k v).finish before) k (restoreResult x) .armed ∧
      ((endRestore asg k v).finish before).image = v.image ∧
      (((endRestore asg k v).finish before).context k).withheld = x ∧
      s.handsOver ((endRestore asg k v).finish before) c x := by
  have marks : v.noMarks := slotUnmarked_of_noMarks_of noMarks (by rw [recorder])
  have ended := next_endContext before asg (k := k) (r := restoreResult (v.context k).withheld) (named := FourSet.none)
    (room_of_noMarks marks _) (.inr nothing) steady
  rw [← endRestore_eq, withheld] at ended
  refine ⟨ends_congr (ended.ends noDeferred fun b => sectionAfter_restored x _) ?_ sections recorder ms store, ended.image,
    ?_, ended.handsOver (restoreResult_completed x) store set target withheld⟩
  · rw [set, context]
  · rw [ended.own]
    exact withheld

/-- With no feeder outstanding and the cursor past the list, the transfer completes. -/
theorem restoreNext_ends {s : State} {k : CtxId} (asg : State → State) (none_ : (s.context k).restoring = none)
    (past : (s.context k).restoreList.length ≤ (s.context k).cursor) : restoreNext asg k s = endRestore asg k s := by
  unfold restoreNext
  dsimp only
  rw [none_, if_neg (by simp), if_pos past]

/-- The context at the end of a walk that takes no feeder: the cursor moved on, some feeders withheld. -/
def Context.walked (n : Nat) (x : DevSet) (c : Context) : Context := { c with cursor := n, withheld := x }

/-- A walk on which every feeder is passed over or does not fit ends the list, those that do not fit withheld (R121). -/
theorem restoreWalk_ends {s : State} {k : CtxId} (asg : State → State) {ds : List DevId}
    (none_taken : ∀ d ∈ ds, s.passedOver k d = true ∨ s.feederFits k d = false) :
    ∃ n x, (∀ d, x.get d = true ↔ (s.context k).withheld.get d = true ∨ (d ∈ ds ∧ s.passedOver k d = false)) ∧
      restoreWalk asg k ds s = endRestore asg k (s.updContext k (Context.walked n x)) := by
  induction ds generalizing s with
  | nil =>
    refine ⟨(s.context k).cursor, (s.context k).withheld, fun d => by simp, ?_⟩
    have same : s.updContext k (Context.walked (s.context k).cursor (s.context k).withheld) = s := by
      show { s with contexts := s.contexts.set k (s.contexts.get k) } = s
      rw [Three.set_get]
    rw [same]
    rfl
  | cons d ds ih =>
    have on : ∀ f : Context → Context, (∀ c, (f c).set = c.set) → ∀ e ∈ ds,
        (s.updContext k f).passedOver k e = true ∨ (s.updContext k f).feederFits k e = false := fun f keeps e mem => by
      rw [passedOver_congr (s := s) (u := s.updContext k f) rfl rfl,
        feederFits_congr (s := s) (u := s.updContext k f) rfl rfl (by rw [context_updContext, keeps])]
      exact none_taken e (List.mem_cons_of_mem _ mem)
    unfold restoreWalk
    rw [passedOver_eq]
    by_cases over_ : s.passedOver k d = true
    · obtain ⟨n, x, members, walks⟩ := ih (s := s.updContext k Context.advance) (on _ fun _ => rfl)
      refine ⟨n, x, fun e => ?_, ?_⟩
      · rw [members, context_updContext, passedOver_congr (s := s) (u := s.updContext k Context.advance) rfl rfl]
        have apart : s.passedOver k e = false → e ≠ d := fun taken is => by
          rw [is, over_] at taken
          cases taken
        simp only [Context.advance, List.mem_cons]
        exact ⟨fun h => h.imp_right fun ⟨mem, taken⟩ => ⟨.inr mem, taken⟩,
          fun h => h.imp_right fun ⟨mem, taken⟩ => ⟨mem.resolve_left (apart taken), taken⟩⟩
      · rw [if_pos over_, walks, updContext_updContext]
        rfl
    · obtain ⟨n, x, members, walks⟩ := ih
        (s := s.updContext k fun c => { c.advance with withheld := c.withheld.set d true }) (on _ fun _ => rfl)
      have low : s.feederFits k d = false := (none_taken d List.mem_cons_self).resolve_left over_
      refine ⟨n, x, fun e => ?_, ?_⟩
      · rw [members, context_updContext, passedOver_congr (s := s)
          (u := s.updContext k fun c => { c.advance with withheld := c.withheld.set d true }) rfl rfl, List.mem_cons]
        show ((s.context k).withheld.set d true).get e = true ∨ _ ↔ _
        rw [Sixteen.get_set]
        by_cases own : e = d
        · subst own
          simp [over_]
        · simp [own]
      · rw [if_neg over_, low, if_pos (by rfl), walks, updContext_updContext]
        rfl

/-! ## A word that is none of a disturbance (R48) -/

/-- Only OPENING_OLD, and SYNC_WAIT and CLOSING_PARALLEL with the reroute mark, wait for a device to open. -/
theorem awaitsOpen_of_phase {s : State} {c : Context} (d : DevId) (old : c.phase ≠ .openingOld)
    (sync : c.phase ≠ .syncWait) (parallel : c.phase ≠ .closingParallel) : s.awaitsOpen c d = false := by
  have waits : c.waitsForOld = false := by simp [Context.waitsForOld, sync, parallel]
  unfold State.awaitsOpen
  rw [waits]
  simp [old]

theorem onPosition_closed_quiet {s : State} {k : CtxId} {d : DevId} {was : Position} {wasClosed rose : Bool}
    (asg : State → State) (closed : (s.device d).observed = .closed) (abandoned : (s.context k).abandoned.get d = false) :
    onPosition asg k d was wasClosed rose s = s := by
  unfold onPosition
  dsimp only
  rw [closed, abandoned]
  simp

theorem tieInside_of_feeder {s : State} {d : DevId} {b : SecId} (kind : s.kindOf d = .feeder b) (x : FourSet) :
    s.tieInside d x = false := by
  unfold State.tieInside
  rw [kind]

theorem onCompleted_feeder {s : State} {k : CtxId} {d : DevId} (asg : State → State) (active : s.active k = true)
    (phase : (s.context k).phase = .restoring) (restoring : (s.context k).restoring = some d) :
    onCompleted asg k d .cls s = settleFeeder asg k s := by
  have awaits : s.awaitsOpen (s.context k) d = false := awaitsOpen_of_phase d (by simp [phase]) (by simp [phase]) (by simp [phase])
  unfold onCompleted
  dsimp only
  rw [active, awaits, phase, restoring]
  simp

/-- A device whose CLOSE completes counts as closed before and after. -/
theorem report_ends_close {x : Device} {w : Word} {e : Ms} (op : x.op = .inProgress .cls e)
    (position : positionOf w = .closed) :
    (x.report w).observed = .closed ∧ (x.report w).op = .idle ∧ x.completes (positionOf w) = some .cls ∧ x.report w ≠ x := by
  have completes : x.completes (positionOf w) = some .cls := by
    unfold Device.completes
    rw [op]
    exact if_pos position
  have idle : (x.report w).op = .idle := by
    rw [report_op, op]
    exact if_pos position
  refine ⟨position, idle, completes, fun same => ?_⟩
  rw [same, op] at idle
  cases idle

theorem countedClosed_reported_close {s v : State} {d : DevId} {y : Device} (store : v.store = s.store)
    (devices : v.devices = s.devices.set d y) (closed : s.countedClosed d = true) (observed : y.observed = .closed) (e : DevId) :
    v.countedClosed e = s.countedClosed e := by
  by_cases own : e = d
  · subst own
    rw [closed]
    have record : s.hasRecord e = true := (Bool.and_eq_true_iff.1 closed).1
    unfold State.countedClosed State.device
    rw [hasRecord_of_store store, record, devices, Sixteen.get_set_same, observed]
    rfl
  · have same : v.device e = s.device e := by
      unfold State.device
      rw [devices, Sixteen.get_set_ne _ own]
    exact countedClosed_congr store (by rw [same]) (by rw [same])

theorem countedClosed_of_close {s : State} {d : DevId} {e : Ms} (record : s.hasRecord d = true)
    (op : (s.device d).op = .inProgress .cls e) : s.countedClosed d = true := by
  unfold State.countedClosed
  rw [record, op]
  simp

theorem hasRecord_of_feeder {s : State} {d : DevId} {b : SecId} (kind : s.kindOf d = .feeder b) : s.hasRecord d = true := by
  unfold State.hasRecord
  rw [kind]

theorem report_deferred (x : Device) (w : Word) : (x.report w).deferred = x.deferred := rfl

theorem noDeferred_reported {s v : State} {d : DevId} {w : Word} (noDeferred : s.noDeferred)
    (devices : v.devices = s.devices.set d ((s.device d).report w)) : v.noDeferred := fun e => by
  unfold State.device
  rw [devices, Sixteen.get_set]
  split
  · exact (report_deferred _ _).trans (noDeferred d)
  · exact noDeferred e

/-- The state v in which the owner of device d is told of its position word a, taken from t (R45, R48). -/
structure Reported (t v : State) (a : Access) (d : DevId) : Prop where
  image : v.image = t.image.write a.addr.toNat a.data
  devices : v.devices = t.devices.set d ((t.device d).report a.data)
  sections : ∀ b, v.section b = t.sectionReported d ((t.device d).report a.data) b
  sources : ∀ n, v.source n = t.sourceReported d ((t.device d).report a.data) n
  dirty : ∀ off ∈ t.dirty, off ∈ v.dirty
  store : v.store = t.store
  contexts : v.contexts = t.contexts
  recorder : v.recorder = t.recorder
  ms : v.ms = t.ms
  injections : v.injections = t.injections
  queue : v.queue = t.queue
  freed : v.freed = t.freed
  sync : v.sync = t.sync
  latch : v.latch = t.latch
  locks : v.locks = t.locks

section
variable {t v : State} {a : Access} {d : DevId} (h : Reported t v a d)
include h

theorem Reported.context (k : CtxId) : v.context k = t.context k := by
  unfold State.context
  rw [h.contexts]

theorem Reported.active (k : CtxId) : v.active k = t.active k := by
  unfold State.active
  rw [h.context]

theorem Reported.device : v.device d = (t.device d).report a.data := by
  unfold State.device
  rw [h.devices, Sixteen.get_set_same]
  rfl

theorem Reported.device_other {e : DevId} (other : e ≠ d) : v.device e = t.device e := by
  unfold State.device
  rw [h.devices, Sixteen.get_set_ne _ other]

theorem Reported.section_state (b : SecId) : (v.section b).state = (t.section b).state := by
  rw [h.sections]
  exact sectionReported_state _ _ _ _

theorem Reported.source_state (n : SrcId) : (v.source n).state = (t.source n).state := by
  rw [h.sources]
  exact sourceReported_state _ _ _ _

theorem Reported.noMarks (noMarks : t.noMarks) : v.noMarks := slotUnmarked_of_noMarks_of noMarks (by rw [h.recorder])

theorem Reported.noDeferred (noDeferred : t.noDeferred) : v.noDeferred := noDeferred_reported noDeferred h.devices

theorem Reported.steadyBut {k : CtxId} (steady : t.steadyBut k) : v.steadyBut k :=
  ⟨by rw [State.settled, h.freed]; exact steady.1, fun j ne => by rw [h.context]; exact steady.2 j ne⟩

end

theorem position_of_reports {s t : State} {a : Access} {d : DevId} {p : Position} (reports : s.reports t a d p) :
    positionOf a.data = p := by
  obtain ⟨_, _, _, position, _⟩ := reports
  exact position

/-- A word that changes the record of a device, told to the context that owns it. -/
theorem exec_positionWord_told {s t : State} {a : Access} {d : DevId} {p : Position} {k : CtxId} (reports : s.reports t a d p)
    (changed : (t.device d).report a.data ≠ t.device d) (owner : (t.device d).owner = .context k) :
    ∃ v, Reported t v a d ∧ exec .positionWord s = .next
      ((match (t.device d).completes p with
        | some c => onCompleted assign k d c (onPosition assign k d (t.device d).observed (t.countedClosed d) false v)
        | none => onPosition assign k d (t.device d).observed (t.countedClosed d) false v).finish t) := by
  obtain ⟨granted, ht, hclass, position, level⟩ := reports
  obtain ⟨S, R, D, marked, sections, sources, reported⟩ :=
    reported_shape (t.storeWord a.addr a.data) d ((t.device d).report a.data)
  have row := exec_positionWord_granted granted ht hclass
  rw [takePosition_owned (s := t.storeWord a.addr a.data) changed level owner] at row
  rw [show (t.storeWord a.addr a.data).reported d (((t.storeWord a.addr a.data).device d).report a.data) = _
    from reported] at row
  rw [← position]
  exact ⟨{ t.storeWord a.addr a.data with
      devices := t.devices.set d ((t.device d).report a.data), sections := S, sources := R, dirty := D },
    ⟨rfl, rfl, sections, sources, marked, rfl, rfl, rfl, rfl, rfl, rfl, rfl, rfl, rfl, rfl⟩, row⟩

/-- Settles O53: the restore list ends at the stagger's expiry, or at the completion of its last feeder. -/
theorem restoreListEnds : Obligations.RestoreListEnds := by
  refine ⟨fun s k c ds x r active context timer phase none_ rest none_taken members result noDeferred noMarks nothing steady => ?_,
    fun s t a d b k e c r reports kind owner op active context phase restoring past abandoned result noDeferred noMarks
      nothing steady => ?_⟩
  · subst context
    obtain ⟨v, hv⟩ : ∃ v, v = s.stopTimer k := ⟨_, rfl⟩
    have stopped : v.context k = { s.context k with timer := none } := by rw [hv]; exact context_updContext _ _ _
    have none_taken_v : ∀ d ∈ ds, v.passedOver k d = true ∨ v.feederFits k d = false := fun d mem => by
      rw [passedOver_congr (s := s) (u := v) (by rw [hv]; rfl) (by rw [hv]; rfl),
        feederFits_congr (s := s) (u := v) (by rw [hv]; rfl) (by rw [hv]; rfl) (by rw [stopped])]
      exact none_taken d mem
    obtain ⟨n, y, holds, walks⟩ := restoreWalk_ends assign none_taken_v
    have same : y = x := Sixteen.ext_get fun d => Bool.eq_iff_iff.2 <| by
      rw [holds, members, stopped, passedOver_congr (s := s) (u := v) (by rw [hv]; rfl) (by rw [hv]; rfl)]
    subst same
    have ends : restoreNext assign k v = endRestore assign k (v.updContext k (Context.walked n y)) := by
      rw [← walks]
      cases ds with
      | nil =>
        exact restoreNext_ends assign (by rw [stopped]; exact none_) (by
          rw [stopped]
          exact List.drop_eq_nil_iff.1 rest)
      | cons d ds => exact restoreNext_walks assign (by rw [stopped]; exact none_) (by rw [stopped]) (by rw [stopped]; exact rest)
    have row := exec_restoreStaggerExpiry_due active timer
    rw [if_pos phase, ← hv, ends] at row
    obtain ⟨w, hw⟩ : ∃ w, w = v.updContext k (Context.walked n y) := ⟨_, rfl⟩
    rw [← hw] at row
    have wcontext : w.context k = Context.walked n y { s.context k with timer := none } := by
      rw [hw, context_updContext, stopped]
    obtain ⟨ended, image, withheld, hands⟩ := next_endRestore (s := s) (v := w) s assign (k := k) (c := s.context k) (x := y)
      (by rw [hw, hv]; rfl) (by rw [hw, hv]; rfl) (by rw [hw, hv]; rfl) (fun b => by rw [hw, hv]; rfl) rfl
      (by rw [wcontext]; rfl) (by rw [wcontext]; rfl) (by rw [wcontext]; rfl) (by rw [hw, hv]; exact noDeferred) noMarks
      (nothingToEvaluate_of_closed (s := s) (by rw [hw, hv]; rfl) (fun d => by rw [hw, hv]; rfl)
        (fun n => by rw [hw, hv]; rfl) nothing)
      (steadyBut_of_set (c := w.context k) (steadyBut_of_steady steady k) (by
        rw [hw, hv]
        unfold State.stopTimer State.updContext State.setContext State.context
        dsimp only
        rw [Three.get_set_same, Three.set_set, Three.get_set_same]) (by rw [hw, hv]; rfl))
    subst result
    exact ⟨_, row, ended, by rw [image, hw, hv]; rfl, withheld, hands⟩
  · subst context
    obtain ⟨observed, _, completes, changed⟩ := report_ends_close op (position_of_reports reports)
    obtain ⟨v, told, row⟩ := exec_positionWord_told reports changed owner
    rw [position_of_reports reports] at completes
    rw [completes] at row
    dsimp only at row
    rw [onPosition_closed_quiet assign (by rw [told.device]; exact observed) (by rw [told.context]; exact abandoned),
      onCompleted_feeder assign (by rw [told.active]; exact active) (by rw [told.context]; exact phase)
        (by rw [told.context]; exact restoring)] at row
    obtain ⟨w, hw⟩ : ∃ w, w = v.updContext k fun c => { c.advance with restoring := none } := ⟨_, rfl⟩
    have wcontext : w.context k = { (t.context k).advance with restoring := none } := by
      rw [hw, context_updContext, told.context]
    have ends : settleFeeder assign k v = endRestore assign k w := by
      unfold settleFeeder
      rw [← hw]
      exact restoreNext_ends assign (by rw [wcontext]) (by rw [wcontext]; exact past)
    rw [ends] at row
    have closed : t.countedClosed d = true := countedClosed_of_close (hasRecord_of_feeder kind) op
    obtain ⟨ended, _, withheld, hands⟩ := next_endRestore (s := t) (v := w) t assign (k := k) (c := t.context k)
      (x := (t.context k).withheld) (by rw [hw]; exact told.store) (by rw [hw]; exact told.ms)
      (by rw [hw]; exact told.recorder) (fun b => by rw [hw]; exact told.section_state b) rfl
      (by rw [wcontext]; rfl) (by rw [wcontext]; rfl) (by rw [wcontext]; rfl)
      (by rw [hw]; exact told.noDeferred noDeferred) noMarks
      (nothingToEvaluate_of_closed (s := t) (by rw [hw]; exact told.store)
        (fun d' => by rw [hw]; exact countedClosed_reported_close told.store told.devices closed observed d')
        (fun n => by rw [hw]; exact told.source_state n) nothing)
      (steadyBut_of_set (s := v) (c := w.context k) (told.steadyBut (steadyBut_of_steady steady k))
        (by rw [wcontext, hw, ← told.context]; rfl) (by rw [hw]; rfl))
    subst result
    exact ⟨_, row, ended, withheld, hands⟩

end Sys2Proof.Machine
end

section
/-! PROOFS. SELECT and OPENING (R111 to R116): what each of their outcomes leaves of the block; and the start limit of
AWAIT_SOURCE (R114), which ends in any of them. -/

namespace Sys2Proof.Machine

/-! ## SELECT (R111, R112, R143) -/

/-- A context on entry to SELECT. -/
def Context.selecting (c : Context) : Context := { c with phase := .select, reroute := false }

theorem enterSelect_list {s : State} {k : CtxId} (asg : State → State) (open_ : (s.context k).fixed = false) :
    enterSelect asg k s = selectList asg k (s.updContext k Context.selecting) := by
  have fixed : ((s.updContext k Context.selecting).context k).fixed = false := by
    rw [context_updContext]
    exact open_
  unfold enterSelect
  dsimp only
  rw [show (s.updContext k fun c => { c with phase := .select, reroute := false }) = s.updContext k Context.selecting
    from rfl, fixed]

theorem enterSelect_fixed {s : State} {k : CtxId} {r : Route} (asg : State → State) (fixed : (s.context k).fixed = true)
    (target : (s.context k).target = some r) :
    enterSelect asg k s = selectFixed asg k r (s.updContext k Context.selecting) := by
  have fixed_v : ((s.updContext k Context.selecting).context k).fixed = true := by
    rw [context_updContext]
    exact fixed
  have target_v : ((s.updContext k Context.selecting).context k).target = some r := by
    rw [context_updContext]
    exact target
  unfold enterSelect
  dsimp only
  rw [show (s.updContext k fun c => { c with phase := .select, reroute := false }) = s.updContext k Context.selecting
    from rfl, fixed_v, target_v]

/-- The routes of a context's list that are not excluded. -/
def State.routesLeft (s : State) (c : Context) : List Route :=
  (s.sectionEntry c.lead).routes.filter fun r => !c.excluded.contains r

section
variable {s : State} {k : CtxId} (asg : State → State)

theorem selectList_fed {f : SrcId} (fed : s.fedAvailable (s.context k).set = some f) :
    selectList asg k s =
      endContext asg k (if (s.context k).oldSources.get f = true then .recovered else .supplied) FourSet.none s := by
  unfold selectList
  dsimp only
  rw [fed]

theorem selectList_takes {r : Route} (unfed : s.fedAvailable (s.context k).set = none)
    (found : (s.routesLeft (s.context k)).find? (s.usable k false) = some r) :
    selectList asg k s = takeRoute asg k r s := by
  unfold State.routesLeft at found
  unfold selectList
  dsimp only
  rw [unfed]
  dsimp only
  rw [found]

theorem selectList_awaits {n : SrcId} (unfed : s.fedAvailable (s.context k).set = none)
    (unusable : (s.routesLeft (s.context k)).find? (s.usable k false) = none)
    (found : (s.routesLeft (s.context k)).findSome? (s.awaitable k) = some n) :
    selectList asg k s = s.enterAwait k n := by
  unfold State.routesLeft at unusable found
  unfold selectList
  dsimp only
  rw [unfed]
  dsimp only
  rw [unusable]
  dsimp only
  rw [found]

theorem selectList_noRoute (unfed : s.fedAvailable (s.context k).set = none)
    (unusable : (s.routesLeft (s.context k)).find? (s.usable k false) = none)
    (none_ : (s.routesLeft (s.context k)).findSome? (s.awaitable k) = none) :
    selectList asg k s = endContext asg k .noRoute FourSet.none s := by
  unfold State.routesLeft at unusable none_
  unfold selectList
  dsimp only
  rw [unfed]
  dsimp only
  rw [unusable]
  dsimp only
  rw [none_]

theorem selectFixed_takes {r : Route} (open_ : (s.context k).excluded.contains r = false)
    (usable : s.usable k false r = true) : selectFixed asg k r s = takeRoute asg k r s := by
  unfold selectFixed
  dsimp only
  rw [open_, usable]
  exact if_pos (by rfl)

end

theorem routesLeft_congr {s u : State} {c c' : Context} (store : u.store = s.store) (lead : c'.lead = c.lead)
    (excluded : c'.excluded = c.excluded) : u.routesLeft c' = s.routesLeft c := by
  unfold State.routesLeft State.sectionEntry State.board
  rw [store, lead, excluded]

/-- What SELECT asks of a route rests on the board and on the context's set. -/
theorem usable_congr {s u : State} {k : CtxId} (store : u.store = s.store) (devices : u.devices = s.devices)
    (states : ∀ n, (u.source n).state = (s.source n).state)
    (sections : ∀ b, (u.section b).state = (s.section b).state) (set : (u.context k).set = (s.context k).set)
    (ignoreState : Bool) : u.usable k ignoreState = s.usable k ignoreState := funext fun r => by
  unfold State.usable
  rw [set, shedLoad_congr store devices, usableFor_congr store devices states sections set]

theorem awaitable_congr {s u : State} {k : CtxId} (store : u.store = s.store) (devices : u.devices = s.devices)
    (states : ∀ n, (u.source n).state = (s.source n).state)
    (sections : ∀ b, (u.section b).state = (s.section b).state) (set : (u.context k).set = (s.context k).set) :
    u.awaitable k = s.awaitable k := funext fun r => by
  have entry : ∀ n, u.sourceEntry n = s.sourceEntry n := fun n => by
    unfold State.sourceEntry State.board
    rw [store]
  unfold State.awaitable
  simp only [entry, states, usable_congr store devices states sections set]

/-! ## OPENING (R115) -/

/-- An operation that queues an OPEN for each device of a list. -/
theorem foldl_enqueue_shape {s : State} {k : CtxId} {ds : List DevId} (records : ∀ d ∈ ds, s.hasRecord d = true)
    (q : List Injection) (D : List Nat) :
    ∃ D', (∀ off ∈ D, off ∈ D') ∧
      ds.foldl (fun s d => s.enqueue d .opn (.context k)) { s with injections := q, dirty := D } =
        { s with
          injections := ds.foldl (fun q d => joinInjection
            { device := d, code := .opn, tag := (s.device d).tag + 1, owner := .context k } q) q,
          dirty := D' } := by
  induction ds generalizing q D with
  | nil => exact ⟨D, fun _ mem => mem, rfl⟩
  | cons d ds ih =>
    obtain ⟨D₁, marked₁, queued⟩ := enqueue_shape (s := { s with injections := q, dirty := D }) .opn (.context k)
      (records d List.mem_cons_self)
    obtain ⟨D₂, marked₂, rest⟩ := ih (fun e mem => records e (List.mem_cons_of_mem _ mem))
      (joinInjection { device := d, code := .opn, tag := (s.device d).tag + 1, owner := .context k } q) D₁
    refine ⟨D₂, fun off mem => marked₂ off (marked₁ off mem), ?_⟩
    rw [List.foldl_cons, queued]
    exact rest

theorem mem_devices (x : DevSet) (d : DevId) : d ∈ DevSet.toList x ↔ x.get d = true := by
  have every : d ∈ allDevices := by revert d; decide
  simp [DevSet.toList, every]

theorem contains_devices (x : DevSet) (d : DevId) : (DevSet.toList x).contains d = x.get d :=
  Bool.eq_iff_iff.2 (List.contains_iff_mem.trans (mem_devices x d))

theorem isEmpty_devices (x : DevSet) : (DevSet.toList x).isEmpty = DevSet.isEmpty x := by
  unfold DevSet.toList DevSet.isEmpty
  induction allDevices with
  | nil => rfl
  | cons d ds ih =>
    rw [List.filter_cons, List.all_cons, ← ih]
    cases x.get d <;> rfl

theorem isEmpty_iff (x : DevSet) : DevSet.isEmpty x = true ↔ x = DevSet.none := by
  unfold DevSet.isEmpty
  rw [List.all_eq_true]
  constructor
  · intro none_
    refine Sixteen.ext_get fun d => ?_
    have here := none_ d (by revert d; decide)
    rw [show DevSet.none.get d = false from Sixteen.get_fill _ _]
    simpa using here
  · intro is d _
    rw [is, show DevSet.none.get d = false from Sixteen.get_fill _ _]
    rfl

theorem openingList_eq (s : State) (c : Context) : s.openingList c = DevSet.toList (s.opens c c.abandoned) := by
  unfold State.openingList State.opens DevSet.toList
  refine List.filter_congr fun d _ => ?_
  rw [Sixteen.get_ofFn]

/-- The record of a context that has entered OPENING with the devices x to open (R115). -/
def State.openingRecord (s : State) (x : DevSet) (c : Context) : Context :=
  { c with
    phase := .opening, sent := DevSet.none, failed := DevSet.none, closeInMemory := false, opening := x,
    shed := Sixteen.ofFn fun d => c.shed.get d || (x.get d && s.feederOn (Four.fill true) d) }

theorem opens_congr {s u : State} {c c' : Context} (store : u.store = s.store) (devices : u.devices = s.devices)
    (set : c'.set = c.set) (oldTie : c'.oldTie = c.oldTie) (restored : c'.restored = c.restored) (left : DevSet) :
    u.opens c' left = s.opens c left := by
  have same : u.opens c' left = u.opens c left := by
    unfold State.opens
    rw [set, oldTie, restored]
  rw [same]
  cases s; cases u; cases store; cases devices; rfl

/-- Entry to OPENING, the devices to open all owned (R115). -/
theorem enterOpening_eq {s : State} {k : CtxId} {x : DevSet} (asg : State → State)
    (list : s.opens (s.context k) (s.context k).abandoned = x) (own : s.ownsAll k x) :
    ∃ D, (∀ off ∈ s.dirty, off ∈ D) ∧ enterOpening asg k s =
      if DevSet.isEmpty x then leaveOpening asg k (s.updContext k (s.openingRecord x))
      else { s with
        contexts := s.contexts.set k (s.openingRecord x (s.context k)),
        injections := s.openingQueue k x s.injections, dirty := D } := by
  obtain ⟨v, hv⟩ : ∃ v, v = s.updContext k fun c =>
    { c with phase := .opening, sent := DevSet.none, failed := DevSet.none, opening := DevSet.none,
             closeInMemory := false } := ⟨_, rfl⟩
  have owned : (DevSet.toList x).any (fun d => !v.owns k d) = false := by
    rw [List.any_eq_false]
    intro d mem
    rw [hv, show (s.updContext k _).owns k d = s.owns k d from rfl, own d ((mem_devices x d).1 mem)]
    simp
  have records : ∀ d ∈ DevSet.toList x, v.hasRecord d = true := fun d mem => by
    rw [hv]
    exact hasRecord_of_owns (own d ((mem_devices x d).1 mem))
  obtain ⟨D, marked, queued⟩ := foldl_enqueue_shape (s := v) (k := k) records v.injections v.dirty
  have feeder : v.feederOn (Four.fill true) = s.feederOn (Four.fill true) := by rw [hv]; rfl
  have whole : ∀ u : State, u.contexts = v.contexts → u.updContext k (fun c =>
      { c with
        opening := Sixteen.ofFn fun d => (DevSet.toList x).contains d
        shed := Sixteen.ofFn fun d => c.shed.get d || ((DevSet.toList x).contains d && v.feederOn (Four.fill true) d) }) =
      { u with contexts := s.contexts.set k (s.openingRecord x (s.context k)) } := by
    intro u same
    have members : (Sixteen.ofFn fun d => (DevSet.toList x).contains d) = x := Sixteen.ext_get fun d => by
      rw [Sixteen.get_ofFn, contains_devices]
    unfold State.updContext State.setContext State.context
    rw [members, same, hv]
    unfold State.updContext State.setContext State.context
    dsimp only
    rw [Three.set_set, Three.get_set_same]
    simp only [contains_devices]
    rfl
  refine ⟨D, fun off mem => marked off (by rw [hv]; exact mem), ?_⟩
  obtain ⟨w, hw⟩ : ∃ w, w = (DevSet.toList x).foldl (fun s d => s.enqueue d .opn (.context k)) v := ⟨_, rfl⟩
  have shape : w = { v with injections := s.openingQueue k x v.injections, dirty := D } := by
    rw [hw]
    refine queued.trans ?_
    rw [hv]
    rfl
  unfold enterOpening
  dsimp only
  rw [openingList_eq, list, ← hv, owned, if_neg (by simp), ← hw, isEmpty_devices, whole w (by rw [shape])]
  by_cases empty : DevSet.isEmpty x = true
  · have nothing : DevSet.toList x = [] := by
      rw [← List.isEmpty_iff, isEmpty_devices]
      exact empty
    have same : w = v := by
      rw [hw, nothing]
      rfl
    rw [if_pos empty, if_pos empty, same, hv]
    rfl
  · rw [if_neg empty, if_neg empty, shape, hv]
    rfl

/-! ## DEAD_WAIT (R116, R117) -/

/-- A context on entry to DEAD_WAIT, the dead-bus time running to `due`. -/
def Context.deadWaiting (due : Ms) (c : Context) : Context := { c with phase := .deadWait, timer := some (.deadBus, due) }

theorem enterDeadWait_eq (s : State) (k : CtxId) :
    s.enterDeadWait k = s.updContext k
      (Context.deadWaiting (s.ms + BitVec.ofNat 32 (s.sectionEntry (s.context k).lead).deadBus)) := by
  unfold State.enterDeadWait State.startTimer
  rw [updContext_updContext]
  rfl

theorem leaveOpening_dead {s : State} {k : CtxId} (asg : State → State) (open_ : s.openingFailed (s.context k) = false)
    (dead : s.dead (s.context k).set = true) : leaveOpening asg k s = s.enterDeadWait k := by
  unfold leaveOpening
  dsimp only
  rw [open_, dead]
  rfl

theorem leaveOpening_alive {s : State} {k : CtxId} (asg : State → State) (alive : s.dead (s.context k).set = false) :
    leaveOpening asg k s = endContext asg k .deviceFailed FourSet.none s := by
  unfold leaveOpening
  dsimp only
  rw [alive]
  split <;> rfl

theorem leaveOpening_failed {s : State} {k : CtxId} (asg : State → State) (failed : s.openingFailed (s.context k) = true) :
    leaveOpening asg k s = endContext asg k .deviceFailed FourSet.none s := by
  unfold leaveOpening
  dsimp only
  rw [failed]
  rfl

theorem openingFailed_iff (s : State) (c : Context) :
    s.openingFailed c = true ↔ ∃ d, c.failed.get d = true ∧ s.decides c d = true := by
  unfold State.openingFailed
  rw [List.any_eq_true]
  exact ⟨fun ⟨d, mem, is⟩ => ⟨d, (mem_devices _ _).1 mem, is⟩, fun ⟨d, mem, is⟩ => ⟨d, (mem_devices _ _).2 mem, is⟩⟩

theorem openingFailed_none {s : State} {c : Context} (none_ : c.failed = DevSet.none) : s.openingFailed c = false := by
  refine Bool.eq_false_iff.2 fun failed => ?_
  obtain ⟨d, mem, _⟩ := (openingFailed_iff s c).1 failed
  rw [none_, show DevSet.none.get d = false from Sixteen.get_fill _ _] at mem
  cases mem

theorem watchDead_running {s : State} {k : CtxId} (dead : s.dead (s.context k).set = true)
    (timer : (s.context k).timer.isSome = true) : s.watchDead k = s := by
  unfold State.watchDead
  dsimp only
  split
  · rfl
  · rfl

/-- The end of an event that leaves one context in DEAD_WAIT, its set dead and its timer running, marks words alone. -/
theorem finish_watching {u : State} (t : State) {k : CtxId} (steady : u.steadyBut k)
    (dead : u.dead (u.context k).set = true) (timer : (u.context k).timer.isSome = true) :
    ∃ D, (∀ off ∈ u.dirty, off ∈ D) ∧ u.finish t = { u with dirty := D } := by
  have watched : ∀ j, u.watchDead j = u := fun j => by
    by_cases own : j = k
    · rw [own]
      exact watchDead_running dead timer
    · exact watchDead_of_noDeadWait u j (steady.2 j own)
  refine ⟨_, fun off mem => mem_markChanged u t off mem, ?_⟩
  unfold State.finish
  rw [settleFreed_settled _ _ steady.1, foldl_fixed _ _ watched]
  exact markChanged_eq u t

/-! ## Taking a route (R111) -/

/-- The record of a context that takes a route r through the device d, before it enters OPENING. -/
def Context.takes (r : Route) (d : DevId) (c : Context) : Context :=
  { c with target := some r, routeDevice := some d, awaited := none, timer := none, abandoned := c.leaves d }

theorem takeRoute_eq {s : State} {k : CtxId} {r : Route} {d : DevId} (asg : State → State)
    (device : s.routeDeviceFor (s.context k).set r = some d) :
    takeRoute asg k r s = enterOpening asg k (s.updContext k (Context.takes r d)).workOutDemands := by
  unfold takeRoute
  dsimp only
  rw [device]
  congr 2
  unfold State.updContext Context.takes Context.leaves
  dsimp only
  cases (s.context k).routeDevice <;> rfl

/-- The record of a context that has taken a route into OPENING, as the statements write it. -/
theorem openingOn_eq (s : State) {c : Context} {x : DevSet} (r : Route) (d : DevId) (fresh : c.reroute = false) :
    s.openingRecord x (c.takes r d) = s.openingOn c (c.leaves d) x r d := by
  unfold State.openingRecord State.openingOn Context.takes
  dsimp only
  rw [← fresh]

/-- The state in which a context that has taken a route enters OPENING. -/
def State.taking (s : State) (k : CtxId) (r : Route) (d : DevId) : State :=
  (s.updContext k (Context.takes r d)).workOutDemands

theorem taking_shape (s : State) (k : CtxId) (r : Route) (d : DevId) :
    ∃ R D, (∀ off ∈ s.dirty, off ∈ D) ∧ (∀ n, (R.get n).state = (s.source n).state) ∧
      s.taking k r d = { s with
        contexts := s.contexts.set k ((s.context k).takes r d), sources := R, dirty := D } := by
  obtain ⟨D, marked, demands⟩ := workOutDemands_shape (s.updContext k (Context.takes r d))
  refine ⟨_, D, marked, fun n => ?_, demands⟩
  rw [Four.get_ofFn]
  exact (demanded_same _ n).1

section
variable {s : State} {k : CtxId} {c : Context} {r : Route} {d : DevId} {x : DevSet} (asg : State → State)
  (context : s.context k = c) (fresh : c.reroute = false) (device : s.routeDeviceFor c.set r = some d)
  (list : s.opens c (c.leaves d) = x) (own : s.ownsAll k x)
include context fresh device list own

/-- A route is taken into OPENING, all the devices to open being owned; with none to open, OPENING is left at once. -/
theorem takeRoute_enters :
    ∃ R D, (∀ off ∈ s.dirty, off ∈ D) ∧ (∀ n, (R.get n).state = (s.source n).state) ∧
      takeRoute asg k r s =
        if DevSet.isEmpty x then leaveOpening asg k { s with
          contexts := s.contexts.set k (s.openingOn c (c.leaves d) x r d), sources := R, dirty := D }
        else { s with
          contexts := s.contexts.set k (s.openingOn c (c.leaves d) x r d),
          injections := s.openingQueue k x s.injections, sources := R, dirty := D } := by
  obtain ⟨R, D₁, marked₁, states, taking⟩ := taking_shape s k r d
  rw [context] at taking
  obtain ⟨v, hv⟩ : ∃ v, v = s.taking k r d := ⟨_, rfl⟩
  have shape := hv.trans taking
  have vcontext : v.context k = c.takes r d := by
    rw [shape]
    exact Three.get_set_same _ _ _
  have list_v : v.opens (v.context k) (v.context k).abandoned = x := by
    rw [vcontext]
    exact (opens_congr (by rw [shape]) (by rw [shape]) rfl rfl rfl _).trans list
  have own_v : v.ownsAll k x := fun e mem =>
    (owns_congr (s := s) (by rw [shape]) (by rw [shape]) k e).trans (own e mem)
  obtain ⟨D₂, marked₂, entered⟩ := enterOpening_eq asg list_v own_v
  have record : v.openingRecord x (v.context k) = s.openingOn c (c.leaves d) x r d := by
    rw [vcontext, ← openingOn_eq s r d fresh, shape]
    rfl
  have updated : v.updContext k (v.openingRecord x) =
      { s with contexts := s.contexts.set k (s.openingOn c (c.leaves d) x r d), sources := R, dirty := D₁ } := by
    show ({ v with contexts := v.contexts.set k (v.openingRecord x (v.context k)) } : State) = _
    rw [record, shape]
    dsimp only
    rw [Three.set_set]
  have route : takeRoute asg k r s = enterOpening asg k v :=
    (takeRoute_eq asg (by rw [context]; exact device)).trans (by rw [hv]; rfl)
  by_cases empty : DevSet.isEmpty x = true
  · refine ⟨R, D₁, marked₁, states, ?_⟩
    rw [route, entered, if_pos empty, if_pos empty, updated]
  · refine ⟨R, D₂, fun off mem => marked₂ off (by rw [shape]; exact marked₁ off mem), states, ?_⟩
    rw [route, entered, if_neg empty, if_neg empty, record, shape]
    dsimp only
    rw [Three.set_set]
    rfl

theorem takeRoute_opens (some_ : DevSet.isEmpty x = false) :
    ∃ R D, (∀ off ∈ s.dirty, off ∈ D) ∧ (∀ n, (R.get n).state = (s.source n).state) ∧
      takeRoute asg k r s = { s with
        contexts := s.contexts.set k (s.openingOn c (c.leaves d) x r d),
        injections := s.openingQueue k x s.injections, sources := R, dirty := D } := by
  obtain ⟨R, D, marked, states, route⟩ := takeRoute_enters asg context fresh device list own
  exact ⟨R, D, marked, states, route.trans (if_neg (by simp [some_]))⟩

theorem takeRoute_waits (none_ : DevSet.isEmpty x = true) (dead : s.dead c.set = true) :
    ∃ R D, (∀ off ∈ s.dirty, off ∈ D) ∧
      takeRoute asg k r s = { s with
        contexts := s.contexts.set k ((s.openingOn c (c.leaves d) x r d).deadWaiting
          (s.ms + BitVec.ofNat 32 (s.sectionEntry c.lead).deadBus)),
        sources := R, dirty := D } := by
  obtain ⟨R, D, marked, _, route⟩ := takeRoute_enters asg context fresh device list own
  rw [if_pos none_] at route
  obtain ⟨v, hv⟩ : ∃ v : State, v = { s with
    contexts := s.contexts.set k (s.openingOn c (c.leaves d) x r d), sources := R, dirty := D } := ⟨_, rfl⟩
  have vcontext : v.context k = s.openingOn c (c.leaves d) x r d := by
    rw [hv]
    exact Three.get_set_same _ _ _
  refine ⟨R, D, marked, route.trans ?_⟩
  rw [← hv, leaveOpening_dead asg (openingFailed_none (by rw [vcontext]; rfl)), enterDeadWait_eq, vcontext]
  · show ({ v with contexts := v.contexts.set k (Context.deadWaiting _ (v.context k)) } : State) = _
    rw [vcontext, hv]
    dsimp only
    rw [Three.set_set]
    rfl
  · rw [vcontext]
    exact (dead_congr (by rw [hv]) (by rw [hv]) _).trans dead

end

/-! ## AWAIT_SOURCE (R114) -/

/-- A context that awaits a source, its start limit running to `due`. -/
def Context.awaiting (n : SrcId) (due : Ms) (c : Context) : Context :=
  { c with phase := .awaitSource, awaited := some n, timer := some (.startLimit, due) }

theorem enterAwait_shape {s : State} {k : CtxId} (n : SrcId) (stopped : (s.context k).timer = none) :
    ∃ R D, (∀ off ∈ s.dirty, off ∈ D) ∧ s.enterAwait k n = { s with
      contexts := s.contexts.set k
        ((s.context k).awaiting n (s.ms + BitVec.ofNat 32 (s.sourceEntry n).startLimit)),
      sources := R, dirty := D } := by
  obtain ⟨D, marked, demands⟩ := workOutDemands_shape
    (s.updContext k (Context.awaiting n (s.ms + BitVec.ofNat 32 (s.sourceEntry n).startLimit)))
  refine ⟨_, D, marked, Eq.trans ?_ demands⟩
  unfold State.enterAwait
  dsimp only
  rw [stopped, if_neg (by simp)]
  unfold State.startTimer
  rw [updContext_updContext]
  rfl

end Sys2Proof.Machine
end

section
/-! PROOFS. The start limit of AWAIT_SOURCE (R114): SELECT is run, the awaited generator's route excluded. -/

namespace Sys2Proof.Machine

theorem exec_startLimitExpiry_due {s : State} {k : CtxId} (active : s.active k = true)
    (timer : (s.context k).timer = some (.startLimit, s.ms)) (phase : (s.context k).phase = .awaitSource) :
    exec (.startLimitExpiry k) s = .next ((s.startLimitExpires k).finish s) := by
  show execStartLimitExpiry k s = _
  unfold execStartLimitExpiry
  rw [timerDue_of active timer, phase]
  rfl

theorem exclude_some (c : Context) (r : Route) :
    c.exclude (some r) =
      { c with excluded := if c.excluded.contains r then c.excluded else c.excluded ++ [r] } := by
  unfold Context.exclude
  dsimp only
  by_cases mem : c.excluded.contains r = true
  · rw [if_pos mem, if_pos mem]
  · rw [if_neg mem, if_neg mem]

/-- The record with which a context whose start limit has run out enters SELECT, `E` its excluded routes. -/
def Context.limited (c : Context) (E : List Route) : Context :=
  { c with excluded := E, timer := none, phase := .select, reroute := false }

theorem awaiting_limited {c : Context} (phase : c.phase = .awaitSource) (E : List Route) (m : SrcId) (due : Ms) :
    (c.limited E).awaiting m due =
      { c with excluded := E, awaited := some m, timer := some (.startLimit, due), reroute := false } := by
  unfold Context.awaiting Context.limited
  dsimp only
  rw [phase]

/-- The start limit's expiry is a SELECT with the awaited route excluded. -/
theorem startLimitExpires_eq {s : State} {k : CtxId} {n : SrcId} {E : List Route} (awaited : (s.context k).awaited = some n)
    (open_ : (s.context k).fixed = false)
    (excluded : E = if (s.context k).excluded.contains (.source n) then (s.context k).excluded
      else (s.context k).excluded ++ [.source n]) :
    s.startLimitExpires k = selectList assign k (s.updContext k fun c => c.limited E) := by
  obtain ⟨v, hv⟩ : ∃ v, v = (s.stopTimer k).updContext k fun c => c.exclude (c.awaited.map .source) := ⟨_, rfl⟩
  have record : ((fun c : Context => c.exclude (c.awaited.map .source)) { s.context k with timer := none }) =
      { s.context k with excluded := E, timer := none } := by
    dsimp only
    rw [awaited, excluded]
    exact exclude_some _ _
  have vcontext : v.context k = { s.context k with excluded := E, timer := none } := by
    rw [hv, context_updContext, State.stopTimer, context_updContext]
    exact record
  unfold State.startLimitExpires
  rw [← hv, enterSelect_list assign (by rw [vcontext]; exact open_)]
  congr 1
  show ({ v with contexts := v.contexts.set k (v.context k).selecting } : State) =
    { s with contexts := s.contexts.set k ((s.context k).limited E) }
  rw [vcontext, hv]
  unfold State.stopTimer State.updContext State.setContext
  dsimp only
  rw [Three.set_set, Three.set_set]
  rfl

theorem sourceEntry_congr {s u : State} (store : u.store = s.store) (n : SrcId) : u.sourceEntry n = s.sourceEntry n := by
  unfold State.sourceEntry State.board
  rw [store]

/-- A generator that no context awaits any more, its incomer not closed, begins to cool down as a transfer ends (R85). -/
theorem Ended.cools_down {s v u : State} {k : CtxId} {r : Result} {named : FourSet} {n : SrcId} (h : Ended v u k r named)
    (store : v.store = s.store) (devices : v.devices = s.devices) (ms : v.ms = s.ms) (same : v.source n = s.source n)
    (others : ∀ j, j ≠ k → v.context j = s.context j) (generator : (s.sourceEntry n).generator = true)
    (demand : (s.source n).demand = true) (open_ : s.incomerClosed n = false)
    (alone : ∀ j, j ≠ k → ¬(s.active j = true ∧ (s.context j).awaited = some n)) :
    (u.source n).demand = false ∧
      (u.source n).cool = some (s.ms + BitVec.ofNat 32 (s.sourceEntry n).coolDown) := by
  obtain ⟨w, hw⟩ : ∃ w : State, w = { v with contexts := u.contexts } := ⟨_, rfl⟩
  have entry : w.sourceEntry n = s.sourceEntry n := sourceEntry_congr (by rw [hw]; exact store) n
  have closed : w.incomerClosed n = false :=
    (incomerClosed_congr (s := s) (by rw [hw]; exact store) (by rw [hw]; exact devices) n).trans open_
  have source : w.source n = s.source n := by rw [hw]; exact same
  have context : ∀ j, w.context j = u.context j := fun j => by rw [hw]; rfl
  have awaits : w.awaits n = false := by
    unfold State.awaits
    rw [List.any_eq_false]
    intro j _
    simp only [State.active, Bool.and_eq_true, beq_iff_eq, context]
    rintro ⟨active, awaited⟩
    by_cases own : j = k
    · rw [own, h.own] at active
      cases active
    · rcases h.others j own with is | is
      · rw [is, others j own] at active awaited
        exact alone j own ⟨beq_iff_eq.2 active, awaited⟩
      · rw [is, others j own] at active awaited
        exact alone j own ⟨beq_iff_eq.2 active, awaited⟩
  have after := h.source n
  rw [← hw, demanded_eq, entry, source, if_neg (by simp [generator]), if_neg (by simp [awaits, closed]),
    if_pos demand] at after
  rw [after]
  refine ⟨rfl, ?_⟩
  rw [hw]
  dsimp only
  rw [ms]

theorem routeDeviceFor_congr {s u : State} (store : u.store = s.store) (x : FourSet) (r : Route) :
    u.routeDeviceFor x r = s.routeDeviceFor x r := by
  cases s; cases u; cases store; rfl

theorem sectionAfter_fed (p : Bool) (named : Bool) :
    sectionAfter (if p = true then .recovered else .supplied) named = .armed := by
  cases p <;> rfl

/-- Settles O48: the start limit expires, and SELECT runs. -/
theorem startLimitExpiryRunsSelect : Obligations.StartLimitExpiryRunsSelect := by
  intro s k n c E routes active phase timer awaited open_ steady excluded hc hroutes
  obtain ⟨w, hw⟩ : ∃ w, w = s.updContext k fun c => c.limited E := ⟨_, rfl⟩
  have row := exec_startLimitExpiry_due active timer phase
  rw [startLimitExpires_eq awaited open_ excluded, ← hw] at row
  have wcontext : w.context k = (s.context k).limited E := by
    rw [hw]
    exact context_updContext _ _ _
  have set : (w.context k).set = c.set := by
    rw [wcontext, hc]
    rfl
  have set_s : (w.context k).set = (s.context k).set := by
    rw [wcontext]
    rfl
  have store : w.store = s.store := by rw [hw]; rfl
  have devices : w.devices = s.devices := by rw [hw]; rfl
  have usable : w.usable k false = s.usable k false :=
    usable_congr store devices (fun _ => by rw [hw]; rfl) (fun _ => by rw [hw]; rfl) set_s false
  have awaitable : w.awaitable k = s.awaitable k :=
    awaitable_congr store devices (fun _ => by rw [hw]; rfl) (fun _ => by rw [hw]; rfl) set_s
  have left : w.routesLeft (w.context k) = routes := by
    rw [hroutes, hc, wcontext, hw]
    rfl
  have fed : ∀ x, w.fedAvailable x = s.fedAvailable x := fun x =>
    fedAvailable_congr store devices (fun _ => by rw [hw]; rfl) x
  have steady_w : w.steadyBut k :=
    steadyBut_of_set (c := (s.context k).limited E) (steadyBut_of_steady steady k) (by rw [hw]; rfl) (by rw [hw]; rfl)
  have ends : ∀ {r : Result} {st : SectionState}, (∀ b, sectionAfter r (FourSet.none.get b) = st) → s.noDeferred → s.noMarks →
      (st = .armed → s.nothingToEvaluate) →
      Ended w ((endContext assign k r FourSet.none w).finish s) k r FourSet.none ∧
        s.ends ((endContext assign k r FourSet.none w).finish s) k r st := by
    intro r st state noDeferred noMarks nothing
    have quiet : w.endsQuietly (w.context k) r FourSet.none := by
      by_cases armed : st = .armed
      · exact .inr (nothingToEvaluate_of_closed store (fun d => closed_congr store devices d) (fun _ => by rw [hw]; rfl)
          (nothing armed))
      · exact .inl fun b _ => by rw [state]; exact armed
    have ended := next_endContext s assign (k := k) (room_of_noMarks (slotUnmarked_of_noMarks_of noMarks (by rw [hw]; rfl)) _)
      quiet steady_w
    exact ⟨ended, ends_congr (ended.ends (by rw [hw]; exact noDeferred) state) set_s (fun b => by rw [hw]; rfl)
      (by rw [hw]; rfl) (by rw [hw]; rfl) store⟩
  refine ⟨fun f r is_fed result _ noDeferred noMarks nothing => ?_, fun unfed => ?_⟩
  · rw [selectList_fed assign (f := f) (by rw [fed, set]; exact is_fed)] at row
    obtain ⟨ended, whole⟩ := ends (r := r) (st := .armed)
      (fun b => by rw [result]; exact sectionAfter_fed _ _) noDeferred noMarks fun _ => nothing
    have same : (if (w.context k).oldSources.get f = true then Result.recovered else .supplied) = r := by
      rw [result, wcontext, hc]
      rfl
    rw [same] at row
    exact ⟨_, row, whole, by rw [ended.image, hw]; rfl, by rw [ended.queue, hw]; rfl⟩
  · have unfed_w : w.fedAvailable (w.context k).set = none := by rw [fed, set]; exact unfed
    refine ⟨fun r d x found device list => ⟨fun own some_ => ?_, fun none_ dead => ?_⟩, fun m unusable found => ?_,
      fun unusable none_ noDeferred noMarks => ?_⟩
    · obtain ⟨R, D₁, marked₁, _, takes⟩ := takeRoute_opens (s := w) (k := k) (c := w.context k) (r := r) (d := d) (x := x)
        assign rfl (by rw [wcontext]; rfl) (by rw [set]; exact (routeDeviceFor_congr store _ _).trans device)
        (by rw [wcontext, ← list, hc]; exact opens_congr store devices rfl rfl rfl _)
        (fun e mem => (owns_congr store devices k e).trans (own e mem)) some_
      rw [selectList_takes assign unfed_w (by rw [left, usable]; exact found), takes] at row
      have opening : w.openingOn (w.context k) ((w.context k).leaves d) x r d = s.openingOn c (c.leaves d) x r d := by
        rw [wcontext, hc, hw]
        rfl
      rw [opening] at row
      obtain ⟨D, _, ended⟩ := next_finish_steady (t := s) (marks := []) (u := { w with
          contexts := w.contexts.set k (s.openingOn c (c.leaves d) x r d),
          injections := w.openingQueue k x w.injections, sources := R, dirty := D₁ })
        (steadyBut_setContext steady_w rfl rfl fun both => by cases both.2) (fun _ mem => by cases mem)
      refine ⟨_, row.trans ended, Three.get_set_same _ _ _, ?_, ?_, ?_, ?_⟩
      · rw [hw]
        rfl
      · rw [hw]
        rfl
      · rw [hw]
        rfl
      · rw [hw]
        rfl
    · obtain ⟨R, D₁, marked₁, takes⟩ := takeRoute_waits (s := w) (k := k) (c := w.context k) (r := r) (d := d) (x := x)
        assign rfl (by rw [wcontext]; rfl) (by rw [set]; exact (routeDeviceFor_congr store _ _).trans device)
        (by rw [wcontext, ← list, hc]; exact opens_congr store devices rfl rfl rfl _)
        (fun e mem => by rw [none_, show DevSet.none.get e = false from Sixteen.get_fill _ _] at mem; cases mem)
        ((isEmpty_iff x).2 none_) (by rw [set, dead_congr store devices]; exact dead)
      rw [selectList_takes assign unfed_w (by rw [left, usable]; exact found), takes] at row
      have waiting : (w.openingOn (w.context k) ((w.context k).leaves d) x r d).deadWaiting
          (w.ms + BitVec.ofNat 32 (w.sectionEntry (w.context k).lead).deadBus) =
          (s.openingOn c (c.leaves d) x r d).deadWaiting
            (s.ms + BitVec.ofNat 32 (s.sectionEntry c.lead).deadBus) := by
        rw [wcontext, hc, hw]
        rfl
      rw [waiting] at row
      obtain ⟨v, hv⟩ : ∃ v : State, v = { w with
          contexts := w.contexts.set k ((s.openingOn c (c.leaves d) x r d).deadWaiting
            (s.ms + BitVec.ofNat 32 (s.sectionEntry c.lead).deadBus)), sources := R, dirty := D₁ } := ⟨_, rfl⟩
      rw [← hv] at row
      have vcontext : v.context k = (s.openingOn c (c.leaves d) x r d).deadWaiting
          (s.ms + BitVec.ofNat 32 (s.sectionEntry c.lead).deadBus) := by
        rw [hv]
        exact Three.get_set_same _ _ _
      obtain ⟨D, _, ended⟩ := finish_watching (u := v) s (k := k)
        (steadyBut_of_set steady_w (by rw [hv]) (by rw [hv]))
        (by
          rw [vcontext]
          exact (dead_congr (s := s) (by rw [hv]; exact store) (by rw [hv]; exact devices) _).trans dead)
        (by rw [vcontext]; rfl)
      refine ⟨_, row.trans (congrArg _ ended), vcontext, ?_, ?_, ?_, ?_⟩
      · rw [hv, hw]
        rfl
      · rw [hv, hw]
        rfl
      · rw [hv, hw]
        rfl
      · rw [hv, hw]
        rfl
    · obtain ⟨R, D₁, marked₁, awaits⟩ := enterAwait_shape (s := w) (k := k) m (by rw [wcontext]; rfl)
      rw [selectList_awaits assign unfed_w (by rw [left, usable]; exact unusable)
        (by rw [left, awaitable]; exact found), awaits] at row
      have waiting : (w.context k).awaiting m (w.ms + BitVec.ofNat 32 (w.sourceEntry m).startLimit) =
          { c with
            awaited := some m, timer := some (.startLimit, s.ms + BitVec.ofNat 32 (s.sourceEntry m).startLimit),
            reroute := false } := by
        rw [wcontext, hc, hw]
        exact awaiting_limited phase E m _
      rw [waiting] at row
      obtain ⟨D, _, ended⟩ := next_finish_steady (t := s) (marks := []) (u := { w with
          contexts := w.contexts.set k
            { c with
              awaited := some m, timer := some (.startLimit, s.ms + BitVec.ofNat 32 (s.sourceEntry m).startLimit),
              reroute := false },
          sources := R, dirty := D₁ })
        (steadyBut_setContext steady_w rfl rfl fun both => by
          have waits : c.phase = .deadWait := both.2
          rw [hc] at waits
          rw [phase] at waits
          cases waits) (fun _ mem => by cases mem)
      refine ⟨_, row.trans ended, Three.get_set_same _ _ _, ?_, ?_, ?_, ?_, ?_⟩
      · rw [hw]
        rfl
      · rw [hw]
        rfl
      · rw [hw]
        rfl
      · rw [hw]
        rfl
      · rw [hw]
        rfl
    · rw [selectList_noRoute assign unfed_w (by rw [left, usable]; exact unusable)
        (by rw [left, awaitable]; exact none_)] at row
      obtain ⟨ended, whole⟩ := ends (r := .noRoute) (st := .held) (fun _ => rfl) noDeferred noMarks fun is => by cases is
      refine ⟨_, row, whole, by rw [ended.image, hw]; rfl, fun generator demand closed alone => ?_⟩
      exact ended.cools_down store devices (by rw [hw]; rfl) (by rw [hw]; rfl)
        (fun j ne => by
          rw [hw]
          exact Three.get_set_ne _ ne _) generator demand closed alone

end Sys2Proof.Machine
end

section
/-! PROOFS. Going back to SELECT (R143), and the CLOSE of the route in CLOSING (R74, R118 to R120, R147). -/

namespace Sys2Proof.Machine

/-! ## Going back to SELECT (R143) -/

/-- The record of a context that goes back to SELECT, `ex` the route that joins its excluded ones. -/
def Context.goneBack (ex : Option Route) (c : Context) : Context :=
  { c with
    excluded := (c.exclude ex).excluded, claim := .none, transition := .opn, timer := keptTimer c.timer,
    restoring := none }

theorem exclude_eq (c : Context) (ex : Option Route) : c.exclude ex = { c with excluded := (c.exclude ex).excluded } := by
  unfold Context.exclude
  split
  · split <;> rfl
  · rfl

/-- The state of a context that goes back, before it is decided whether it waits (R143). -/
def State.goingBack (s : State) (k : CtxId) (ex : Option Route) : State :=
  (((s.updContext k fun c => c.exclude ex).withdrawClaim k).updContext k fun c =>
    { c with transition := .opn, timer := keptTimer c.timer, restoring := none }).cancelCloses k

theorem returnToSelect_eq (asg : State → State) (k : CtxId) (ex : Option Route) (old : Bool) (s : State) :
    returnToSelect asg k ex old s =
      if (s.goingBack k ex).mustSettle k old then (s.goingBack k ex).updContext k fun c => { c with reroute := true }
      else enterSelect asg k (s.goingBack k ex) := rfl

/-- Without a claim, going back changes the record and cancels the CLOSEs that wait. -/
theorem goingBack_unclaimed {s : State} {k : CtxId} (ex : Option Route) (unclaimed : (s.context k).claim = .none) :
    ∃ D, (∀ off ∈ s.dirty, off ∈ D) ∧ s.goingBack k ex = { s with
      contexts := s.contexts.set k ((s.context k).goneBack ex),
      injections := s.injections.filter fun e => !(e.code == .cls && e.owner == .context k), dirty := D } := by
  obtain ⟨v, hv⟩ : ∃ v, v = s.updContext k fun c => c.exclude ex := ⟨_, rfl⟩
  have vcontext : v.context k = (s.context k).exclude ex := by
    rw [hv]
    exact context_updContext _ _ _
  have claim : (v.context k).claim = .none := by
    rw [vcontext, exclude_eq]
    exact unclaimed
  have same : v.withdrawClaim k = v := by
    unfold State.withdrawClaim
    rw [claim]
  have record : (fun c : Context => { c with transition := Transition.opn, timer := keptTimer c.timer, restoring := none })
      (v.context k) = (s.context k).goneBack ex := by
    rw [vcontext, exclude_eq]
    unfold Context.goneBack
    rw [← unclaimed]
  obtain ⟨D, marked, cancelled⟩ := cancelCloses_shape
    (v.updContext k fun c => { c with transition := .opn, timer := keptTimer c.timer, restoring := none }) k
  refine ⟨D, fun off mem => marked off (by rw [hv]; exact mem), ?_⟩
  unfold State.goingBack
  rw [← hv, same, cancelled]
  unfold State.updContext State.setContext
  rw [record, hv]
  unfold State.updContext State.setContext
  dsimp only
  rw [Three.set_set]

/-- A claim that waits leaves the selector's queue. -/
theorem goingBack_waiting {s : State} {k : CtxId} (ex : Option Route) (waiting : (s.context k).claim = .waiting) :
    ∃ D, (∀ off ∈ s.dirty, off ∈ D) ∧ s.goingBack k ex = { s with
      contexts := s.contexts.set k ((s.context k).goneBack ex),
      injections := s.injections.filter fun e => !(e.code == .cls && e.owner == .context k),
      sync := { s.sync with claims := s.sync.claims.filter (· != k), due := s.sync.due.filter (· != k) },
      dirty := D } := by
  obtain ⟨v, hv⟩ : ∃ v, v = s.updContext k fun c => c.exclude ex := ⟨_, rfl⟩
  have vcontext : v.context k = (s.context k).exclude ex := by
    rw [hv]
    exact context_updContext _ _ _
  have claim : (v.context k).claim = .waiting := by
    rw [vcontext, exclude_eq]
    exact waiting
  obtain ⟨w, hw⟩ : ∃ w, w = v.withdrawClaim k := ⟨_, rfl⟩
  have withdrawn : w = { s with
      contexts := s.contexts.set k { (s.context k).exclude ex with claim := .none },
      sync := { s.sync with claims := s.sync.claims.filter (· != k), due := s.sync.due.filter (· != k) } } := by
    rw [hw]
    unfold State.withdrawClaim
    rw [claim]
    show ({ v with contexts := v.contexts.set k { v.context k with claim := .none }, sync := _ } : State) = _
    rw [vcontext, hv]
    unfold State.updContext State.setContext
    dsimp only
    rw [Three.set_set]
  have wcontext : w.context k = { (s.context k).exclude ex with claim := .none } := by
    rw [withdrawn]
    exact Three.get_set_same _ _ _
  have record : (fun c : Context => { c with transition := Transition.opn, timer := keptTimer c.timer, restoring := none })
      (w.context k) = (s.context k).goneBack ex := by
    rw [wcontext, exclude_eq]
    rfl
  obtain ⟨D, marked, cancelled⟩ := cancelCloses_shape
    (w.updContext k fun c => { c with transition := .opn, timer := keptTimer c.timer, restoring := none }) k
  refine ⟨D, fun off mem => marked off (by rw [withdrawn]; exact mem), ?_⟩
  unfold State.goingBack
  rw [← hv, ← hw, cancelled]
  unfold State.updContext State.setContext
  rw [record, withdrawn]
  dsimp only
  rw [Three.set_set]

/-- Only OPENING, OPENING_OLD, SYNC_WAIT and CLOSING_PARALLEL wait for an OPEN before SELECT. -/
theorem mustSettle_of_phase {s : State} {k : CtxId} (old : Bool) (opening : (s.context k).phase ≠ .opening)
    (openingOld : (s.context k).phase ≠ .openingOld) (sync : (s.context k).phase ≠ .syncWait)
    (parallel : (s.context k).phase ≠ .closingParallel) : s.mustSettle k old = false := by
  unfold State.mustSettle
  dsimp only
  split
  · next is => exact absurd is opening
  · next is => exact absurd is openingOld
  · next is => exact absurd is sync
  · next is => exact absurd is parallel
  · rfl

/-! ## SELECT that finds nothing (R111) -/

theorem routesLeft_nil {s : State} {c : Context} (all : ∀ x ∈ (s.sectionEntry c.lead).routes, x ∈ c.excluded) :
    s.routesLeft c = [] := by
  unfold State.routesLeft
  refine List.filter_eq_nil_iff.2 fun x mem => ?_
  simp [all x mem]

/-- Every route excluded and the set not FED, SELECT ends the transfer NO_ROUTE. -/
theorem enterSelect_noRoute {s : State} {k : CtxId} (asg : State → State) (open_ : (s.context k).fixed = false)
    (unfed : s.fedAvailable (s.context k).set = none)
    (all : ∀ x ∈ (s.sectionEntry (s.context k).lead).routes, x ∈ (s.context k).excluded) :
    enterSelect asg k s = endContext asg k .noRoute FourSet.none (s.updContext k Context.selecting) := by
  have context := context_updContext s k Context.selecting
  have unfed_v : (s.updContext k Context.selecting).fedAvailable ((s.updContext k Context.selecting).context k).set = none := by
    rw [context]
    exact (fedAvailable_congr (s := s) rfl rfl (fun _ => rfl) _).trans unfed
  have left : (s.updContext k Context.selecting).routesLeft ((s.updContext k Context.selecting).context k) = [] := by
    rw [context]
    exact routesLeft_nil all
  rw [enterSelect_list asg open_, selectList_noRoute asg unfed_v (by rw [left]; rfl) (by rw [left]; rfl)]

theorem mem_exclude (c : Context) (r : Option Route) (x : Route) :
    x ∈ (c.exclude r).excluded ↔ x ∈ c.excluded ∨ r = some x := by
  cases r with
  | none => simp [Context.exclude]
  | some r =>
    rw [exclude_some]
    dsimp only
    split
    · next mem =>
      refine ⟨.inl, fun h => h.elim id fun is => ?_⟩
      cases is
      exact List.contains_iff_mem.1 mem
    · rw [List.mem_append, List.mem_singleton, Option.some_inj]
      exact ⟨fun h => h.imp_right Eq.symm, fun h => h.imp_right Eq.symm⟩

/-- A context without a claim that goes back and finds no route: the state whose ending is the whole of it. -/
theorem returnToSelect_noRoute {s : State} {k : CtxId} {ex : Option Route} (asg : State → State) (old : Bool)
    (unclaimed : (s.context k).claim = .none) (none_ : s.noRouteLeft k ex)
    (opening : (s.context k).phase ≠ .opening) (openingOld : (s.context k).phase ≠ .openingOld)
    (sync : (s.context k).phase ≠ .syncWait) (parallel : (s.context k).phase ≠ .closingParallel) :
    ∃ D, (∀ off ∈ s.dirty, off ∈ D) ∧ returnToSelect asg k ex old s =
      endContext asg k .noRoute FourSet.none { s with
        contexts := s.contexts.set k ((s.context k).goneBack ex).selecting,
        injections := s.injections.filter fun e => !(e.code == .cls && e.owner == .context k), dirty := D } := by
  obtain ⟨D, marked, gone⟩ := goingBack_unclaimed ex unclaimed
  obtain ⟨v, hv⟩ : ∃ v, v = s.goingBack k ex := ⟨_, rfl⟩
  have shape := hv.trans gone
  have vcontext : v.context k = (s.context k).goneBack ex := by
    rw [shape]
    exact Three.get_set_same _ _ _
  obtain ⟨open_, unfed, all⟩ := none_
  have ends : enterSelect asg k v = endContext asg k .noRoute FourSet.none (v.updContext k Context.selecting) := by
    refine enterSelect_noRoute asg ?_ ?_ fun x mem => ?_
    · rw [vcontext]
      exact open_
    · rw [vcontext]
      exact (fedAvailable_congr (s := s) (by rw [shape]) (by rw [shape]) (fun _ => by rw [shape]; rfl) _).trans unfed
    · rw [vcontext] at mem ⊢
      refine (mem_exclude _ _ _).2 (all x ?_)
      rw [shape] at mem
      exact mem
  refine ⟨D, marked, ?_⟩
  rw [returnToSelect_eq, ← hv, mustSettle_of_phase old (by rw [vcontext]; exact opening) (by rw [vcontext]; exact openingOld)
    (by rw [vcontext]; exact sync) (by rw [vcontext]; exact parallel), if_neg (by simp), ends]
  congr 1
  show ({ v with contexts := v.contexts.set k (v.context k).selecting } : State) = _
  rw [vcontext, shape]
  dsimp only
  rw [Three.set_set]

end Sys2Proof.Machine
end

section
/-! PROOFS. The course of the route's CLOSE in CLOSING (R74, R118 to R120, R147). -/

namespace Sys2Proof.Machine

/-! ## A command that the guard passes reaches memory (R32, R39) -/

/-- An injection that the guard passes without an exemption, no command being pending: what stands when its outcome is
handed out. -/
theorem carryInjection_pass_idle {t : State} {e : Injection} (scanner : Bool)
    (pass : t.judge (.injection e.owner) e.device (some e.code) = .pass false)
    (idle : (t.device e.device).pending = false) :
    ∃ v D, (∀ off ∈ t.dirty, off ∈ D) ∧
      v = { t with
        image := t.image.write (t.entry e.device).command.toNat (commandWord e.code 1 e.tag),
        injections := t.injections.filter fun x => !(x.device == e.device),
        devices := t.devices.set e.device
          { t.device e.device with tag := e.tag, pending := !scanner, op := t.startOperation e.device e.code },
        dirty := D } ∧
      t.carryInjection e scanner =
        (v.handOutcome e fun k => onReached k e.device e.code).tellIfObserved (t.ownerContext e.device) e.device e.code := by
  obtain ⟨D₁, marked₁, dropped⟩ := dropInjections_shape t fun x => x.device == e.device
  obtain ⟨w, hw⟩ : ∃ w, w = (t.dropInjection e.device).storeWord (t.entry e.device).command (commandWord e.code 1 e.tag) :=
    ⟨_, rfl⟩
  have shape : w = { t with
      image := t.image.write (t.entry e.device).command.toNat (commandWord e.code 1 e.tag),
      injections := t.injections.filter fun x => !(x.device == e.device), dirty := D₁ } := by
    rw [hw]
    unfold State.dropInjection
    rw [dropped]
    rfl
  have idle_w : (w.device e.device).pending = false := by rw [shape]; exact idle
  obtain ⟨D, marked, reached⟩ := commandReaches_shape w e.device e.code e.tag (!scanner) (not_pending idle_w)
  rw [recordedReach_idle idle_w, commanded_idle _ _ _ idle_w] at reached
  refine ⟨_, D, fun off mem => marked off (List.mem_append_left _ (by rw [shape]; exact marked₁ off mem)), rfl, ?_⟩
  unfold State.carryInjection
  simp only [pass, Bool.false_eq_true, if_false]
  rw [← hw, reached, shape]
  rfl

theorem handOutcome_owned {s : State} {e : Injection} {k : CtxId} (f : CtxId → State → State)
    (owner : e.owner = .context k) (active : s.active k = true) (own : s.owns k e.device = true) :
    s.handOutcome e f = f k s := by
  unfold State.handOutcome
  rw [owner]
  dsimp only
  rw [active, own]
  exact if_pos (by rfl)

theorem tellIfObserved_not {s : State} {k : Option CtxId} {d : DevId} {code : Cmd}
    (other : (s.device d).observed ≠ code.target) : s.tellIfObserved k d code = s := if_neg other

/-- The record of a context whose route CLOSE has reached memory, the stagger running to `due` (R119). -/
def Context.closeReached (due : Ms) (c : Context) : Context :=
  { c with closeInMemory := true, timer := some (.stagger, due) }

theorem onReached_closes {s : State} {k : CtxId} {d : DevId} (phase : (s.context k).phase = .closing)
    (route : (s.context k).routeDevice = some d) :
    onReached k d .cls s = s.updContext k
      (Context.closeReached (s.ms + BitVec.ofNat 32 (s.sectionEntry (s.context k).lead).stagger)) := by
  unfold onReached
  dsimp only
  rw [phase]
  dsimp only
  rw [if_pos route]
  unfold State.startTimer
  rw [updContext_updContext]
  rfl

theorem startOperation_moves {s : State} {d : DevId} {code : Cmd} (moves : (s.device d).observed ≠ code.target) :
    s.startOperation d code = .inProgress code (s.ms + BitVec.ofNat 32 (s.entry d).limit) := if_neg moves

theorem owns_of_owner {s u : State} {k : CtxId} {d : DevId} (store : u.store = s.store)
    (owner : (u.device d).owner = (s.device d).owner) : u.owns k d = s.owns k d := by
  unfold State.owns
  rw [hasRecord_of_store store, owner]

/-! ## A command that the guard refuses (R72, R74) -/

theorem carryInjection_refuse_eq {t : State} {e : Injection} {r : Detail}
    (refuse : t.judge (.injection e.owner) e.device (some e.code) = .refuse r) (unmarked : t.slotUnmarked) :
    ∃ v D, v = { t with
        injections := t.injections.filter fun x => !(x.device == e.device),
        recorder := t.recorded (t.refusedInjection e r), dirty := D } ∧
      t.carryInjection e false = v.handOutcome e fun k => onRefused assign k e.device := by
  obtain ⟨D, marked, dropped⟩ := dropInjections_shape t fun x => x.device == e.device
  refine ⟨_, markList t.frameMarks D, rfl, ?_⟩
  unfold State.carryInjection State.dropInjection
  simp only [refuse, Bool.false_eq_true, if_false]
  rw [dropped, raise_recorded]
  · rfl
  · exact unmarked.of rfl

theorem onRefused_route {s : State} {k : CtxId} {d : DevId} (asg : State → State)
    (phase : (s.context k).phase = .closing) (route : (s.context k).routeDevice = some d) :
    onRefused asg k d s = rerouteTarget asg k s := by
  unfold onRefused
  dsimp only
  rw [phase]
  exact if_pos route

/-! ## RESTORING is entered (R120) -/

theorem mem_restoreOrder {s : State} {x : DevSet} (low : ∀ d, x.get d = true → (s.entry d).priority < 8) (d : DevId) :
    d ∈ s.restoreOrder x ↔ x.get d = true := by
  unfold State.restoreOrder
  simp only [List.mem_flatMap, List.mem_range, List.mem_filter, mem_devices, beq_iff_eq]
  exact ⟨fun ⟨_, _, mem, _⟩ => mem, fun mem => ⟨_, low d mem, mem, rfl⟩⟩

theorem restoreOrder_sorted (s : State) (x : DevSet) :
    (s.restoreOrder x).Pairwise fun f g =>
      (s.entry f).priority < (s.entry g).priority ∨ ((s.entry f).priority = (s.entry g).priority ∧ f < g) := by
  have ascending : allDevices.Pairwise (· < ·) := by decide
  unfold State.restoreOrder
  rw [List.pairwise_flatMap]
  refine ⟨fun p _ => ?_, List.Pairwise.imp (fun {p q} lt => ?_) List.pairwise_lt_range⟩
  · refine List.Pairwise.imp_of_mem (fun {f g} mem_f mem_g lt => .inr ⟨?_, lt⟩) (List.Pairwise.filter _ (List.Pairwise.filter _ ascending))
    rw [beq_iff_eq.1 (List.mem_filter.1 mem_f).2, beq_iff_eq.1 (List.mem_filter.1 mem_g).2]
  · intro f mem_f g mem_g
    rw [beq_iff_eq.1 (List.mem_filter.1 mem_f).2, beq_iff_eq.1 (List.mem_filter.1 mem_g).2]
    exact .inl lt

/-- The record of a context on entry to RESTORING. -/
def Context.restoringOn (L : List DevId) (c : Context) : Context :=
  { c with phase := .restoring, restoreList := L, cursor := 0, restoring := none, sent := DevSet.none,
           withheld := DevSet.none }

/-- While the stagger runs, RESTORING takes no feeder yet. -/
theorem enterRestoring_waits {s : State} {k : CtxId} {L : List DevId} (asg : State → State)
    (list : L = s.restoreOrder (DevSet.union (s.context k).shed (s.context k).carried)) (some_ : L ≠ [])
    (running : (s.context k).timer.isSome = true) :
    enterRestoring asg k s = s.updContext k (Context.restoringOn L) := by
  obtain ⟨v, hv⟩ : ∃ v, v = s.updContext k (Context.restoringOn L) := ⟨_, rfl⟩
  have vcontext : v.context k = (s.context k).restoringOn L := by
    rw [hv]
    exact context_updContext _ _ _
  have entered : enterRestoring asg k s = restoreNext asg k v := by
    rw [hv, list]
    rfl
  have long : ¬(L.length ≤ 0) := by
    rw [Nat.le_zero, List.length_eq_zero_iff]
    exact some_
  rw [entered, ← hv]
  unfold restoreNext
  dsimp only
  rw [vcontext]
  unfold Context.restoringOn
  dsimp only
  rw [if_neg (by simp), if_neg long, running]
  rfl

theorem onCompleted_route {s : State} {k : CtxId} {d : DevId} (asg : State → State) (active : s.active k = true)
    (phase : (s.context k).phase = .closing) (route : (s.context k).routeDevice = some d) :
    onCompleted asg k d .cls s = enterRestoring asg k s := by
  have awaits : s.awaitsOpen (s.context k) d = false :=
    awaitsOpen_of_phase d (by simp [phase]) (by simp [phase]) (by simp [phase])
  unfold onCompleted
  dsimp only
  rw [active, awaits, phase]
  exact if_pos route

/-! ## The deadline of the route's CLOSE (R147) -/

theorem onFailed_route {s : State} {k : CtxId} {d : DevId} (asg : State → State) (active : s.active k = true)
    (phase : (s.context k).phase = .closing) (route : (s.context k).routeDevice = some d)
    (reached : (s.context k).closeInMemory = true) (abandon : s.board.responses.nextRoute = false) :
    onFailed asg k d .cls s = endContext asg k .deviceFailed FourSet.none s := by
  have awaits : s.awaitsOpen (s.context k) d = false :=
    awaitsOpen_of_phase d (by simp [phase]) (by simp [phase]) (by simp [phase])
  unfold onFailed
  dsimp only
  rw [active, awaits, phase, route, reached, abandon]
  simp

theorem noDeferred_missed {s : State} {d : DevId} {c : Cmd} (unmarked : s.slotUnmarked) (noDeferred : s.noDeferred) :
    (s.missed d c).noDeferred := fun e => by
  rw [missed_eq c unmarked]
  unfold State.device
  rw [Sixteen.get_set]
  split
  · exact noDeferred d
  · exact noDeferred e

theorem device_missed {s : State} {d : DevId} {c : Cmd} (unmarked : s.slotUnmarked) :
    (s.missed d c).device d = { s.device d with fail := true, op := .idle } := by
  rw [missed_eq c unmarked]
  exact Sixteen.get_set_same _ _ _

/-- A released device keeps what is not its owner. -/
theorem Ended.device_fail {s u : State} {k : CtxId} {r : Result} {named : FourSet} (h : Ended s u k r named) (d : DevId) :
    (u.device d).fail = (s.device d).fail := by
  rw [h.device]
  unfold State.releasedDevice
  split <;> rfl

/-- Settles O51: the CLOSE of the route, in CLOSING. -/
theorem routeCloseCourse : Obligations.RouteCloseCourse := by
  refine ⟨fun s t e es k c granted ht head owner code own active context phase route steady =>
      ⟨fun pass idle open_ => ?_, fun r refuse unclaimed none_ noDeferred noMarks => ?_⟩,
    fun s t a d k e x c reports owner op active context phase route abandoned timer low some_ steady => ?_,
    fun s d k c record op owner active context phase route reached abandon steady noMarks noDeferred => ?_⟩
  · subst context
    rw [← code] at pass
    obtain ⟨v, D₁, marked₁, hv, carried⟩ := carryInjection_pass_idle (t := t) (e := e) false pass idle
    rw [code, startOperation_moves open_] at hv
    have owner_v : (v.device e.device).owner = (t.device e.device).owner := by
      rw [hv]
      unfold State.device
      rw [Sixteen.get_set_same]
    have vcontext : v.context k = t.context k := by rw [hv]; rfl
    rw [handOutcome_owned _ owner (by unfold State.active; rw [vcontext]; exact active)
      (by rw [owns_of_owner (s := t) (by rw [hv]) owner_v]; exact own), code,
      onReached_closes (by rw [vcontext]; exact phase) (by rw [vcontext]; exact route)] at carried
    rw [tellIfObserved_not] at carried
    · rw [exec_injectionWrite_granted granted ht head, carried]
      have whole : v.updContext k
          (Context.closeReached (v.ms + BitVec.ofNat 32 (v.sectionEntry (v.context k).lead).stagger)) =
          { v with contexts := t.contexts.set k ((t.context k).closeReached
            (t.ms + BitVec.ofNat 32 (t.sectionEntry (t.context k).lead).stagger)) } := by
        unfold State.updContext State.setContext
        rw [vcontext, hv]
        rfl
      rw [whole, hv]
      refine next_finish_steady ?_ marked₁
      exact steady_setContext steady rfl rfl fun both => by
        have waits : (t.context k).phase = .deadWait := both.2
        rw [phase] at waits
        cases waits
    · show (v.device e.device).observed ≠ _
      rw [hv]
      unfold State.device
      rw [Sixteen.get_set_same]
      exact open_
  · subst context
    rw [← code] at refuse
    obtain ⟨v, D, hv, carried⟩ := carryInjection_refuse_eq refuse (slotUnmarked_of_noMarks noMarks)
    have vcontext : v.context k = t.context k := by rw [hv]; rfl
    have store : v.store = t.store := by rw [hv]
    have devices : v.devices = t.devices := by rw [hv]
    rw [handOutcome_owned _ owner (by unfold State.active; rw [vcontext]; exact active)
      (by rw [owns_congr store devices]; exact own),
      onRefused_route assign (by rw [vcontext]; exact phase) (by rw [vcontext]; exact route)] at carried
    obtain ⟨open_, unfed, all⟩ := none_
    obtain ⟨D₂, marked₂, ends⟩ := returnToSelect_noRoute (s := v) (k := k) (ex := (v.context k).target) assign false
      (by rw [vcontext]; exact unclaimed)
      ⟨by rw [vcontext]; exact open_,
        by rw [vcontext, fedAvailable_congr store devices fun _ => by rw [hv]; rfl]; exact unfed,
        fun x mem => by
          rw [vcontext] at mem ⊢
          exact all x (by rw [hv] at mem; exact mem)⟩
      (by simp [vcontext, phase]) (by simp [vcontext, phase]) (by simp [vcontext, phase]) (by simp [vcontext, phase])
    obtain ⟨w, hw⟩ : ∃ w : State, w = { v with
        contexts := v.contexts.set k ((v.context k).goneBack (v.context k).target).selecting,
        injections := v.injections.filter fun e => !(e.code == .cls && e.owner == .context k), dirty := D₂ } := ⟨_, rfl⟩
    have carried_w : t.carryInjection e false = endContext assign k .noRoute FourSet.none w := by
      rw [carried, hw]
      exact ends
    have wset : (w.context k).set = (t.context k).set := by
      have wcontext : w.context k = ((v.context k).goneBack (v.context k).target).selecting := by
        rw [hw]
        exact Three.get_set_same _ _ _
      rw [wcontext, vcontext]
      rfl
    have ended := next_endContext t assign (k := k) (r := .noRoute) (named := FourSet.none) (s := w)
      (room_of_noMarks (slotUnmarked_of_noMarks_of noMarks (by rw [hw, hv]; rfl)) _)
      (endsQuietly_of_state fun _ h => by cases h)
      (steadyBut_of_set (s := t) (steadyBut_of_steady steady k) (by rw [hw, hv]) (by rw [hw, hv]))
    refine ⟨_, (exec_injectionWrite_granted granted ht head).trans (by rw [carried_w]), by rw [ended.image, hw, hv], ?_⟩
    refine ends_congr (ended.ends (by rw [hw, hv]; exact noDeferred) fun _ => rfl) wset (fun b => by rw [hw, hv]; rfl) ?_
      (by rw [hw, hv]; rfl) (by rw [hw, hv]; rfl)
    rw [hw, hv]
    show t.recorded _ = t.recorded _
    congr 1
    unfold State.refusedInjection State.activeCause
    rw [owner]
    dsimp only
    simp only [Option.bind_some, active, if_true]
    rw [code]
    rfl
  · subst context
    obtain ⟨observed, idle, completes, changed⟩ := report_ends_close op (position_of_reports reports)
    obtain ⟨v, told, row⟩ := exec_positionWord_told reports changed owner
    rw [position_of_reports reports] at completes
    rw [completes] at row
    dsimp only at row
    obtain ⟨L, hL⟩ : ∃ L, L = t.restoreOrder (DevSet.union (t.context k).shed (t.context k).carried) := ⟨_, rfl⟩
    have member : ∀ f, (DevSet.union (t.context k).shed (t.context k).carried).get f = true ↔
        (t.context k).shed.get f = true ∨ (t.context k).carried.get f = true := fun f => by
      unfold DevSet.union
      rw [Sixteen.get_ofFn, Bool.or_eq_true]
    have mem : ∀ f, f ∈ L ↔ (t.context k).shed.get f = true ∨ (t.context k).carried.get f = true := fun f => by
      rw [hL, mem_restoreOrder fun d is => low d ((member d).1 is), member]
    have list : L = v.restoreOrder (DevSet.union (v.context k).shed (v.context k).carried) := by
      rw [hL, told.context]
      unfold State.restoreOrder State.entry State.board
      rw [told.store]
    rw [onPosition_closed_quiet assign (by rw [told.device]; exact observed) (by rw [told.context]; exact abandoned),
      onCompleted_route assign (by rw [told.active]; exact active) (by rw [told.context]; exact phase)
        (by rw [told.context]; exact route),
      enterRestoring_waits assign list (fun nil => by
          obtain ⟨f, is⟩ := some_
          have here := (mem f).2 is
          rw [nil] at here
          cases here) (by rw [told.context, timer]; rfl)] at row
    obtain ⟨D, _, ended⟩ := next_finish_steady (t := t) (marks := []) (u := v.updContext k (Context.restoringOn L))
      (steadyBut_setContext (told.steadyBut (steadyBut_of_steady steady k)) rfl rfl fun both => by cases both.2)
      (fun _ mem => by cases mem)
    refine ⟨_, L, row.trans ended, ?_, ?_, ?_, mem, ?_, ?_, ?_⟩
    · show (v.device d).observed = _
      rw [told.device]
      exact observed
    · show (v.device d).op = _
      rw [told.device]
      exact idle
    · show (v.updContext k (Context.restoringOn L)).context k = _
      rw [context_updContext, told.context]
      rfl
    · rw [hL]
      exact restoreOrder_sorted _ _
    · exact told.injections
    · exact told.queue
  · subst context
    have unmarked : s.slotUnmarked := slotUnmarked_of_noMarks noMarks
    have shape := missed_eq (s := s) (d := d) .cls unmarked
    have vcontext : (s.missed d .cls).context k = s.context k := by rw [shape]; rfl
    have told : s.missDeadline d .cls = endContext assign k .deviceFailed FourSet.none (s.missed d .cls) := by
      rw [missDeadline_eq]
      unfold State.tellOwner
      rw [missed_ownerContext unmarked, ownerContext_of_context owner]
      exact onFailed_route assign (by unfold State.active; rw [vcontext]; exact active) (by rw [vcontext]; exact phase)
        (by rw [vcontext]; exact route) (by rw [vcontext]; exact reached) (by rw [shape]; exact abandon)
    have ended := next_endContext s assign (k := k) (r := .deviceFailed) (named := FourSet.none) (s := s.missed d .cls)
      (room_of_noMarks (slotUnmarked_of_noMarks_of noMarks (by rw [shape]; rfl)) _)
      (endsQuietly_of_state fun _ h => by cases h)
      (by rw [shape]; exact steadyBut_of_steady steady k)
    refine ⟨_, (exec_operateDeadlineExpiry_due record op).trans (by rw [told]), ?_, ?_⟩
    · rw [ended.device_fail, device_missed unmarked]
    · refine ends_congr (ended.ends (noDeferred_missed unmarked noDeferred) fun _ => rfl) (by rw [vcontext]; rfl)
        (fun b => by rw [shape]; rfl) ?_ (by rw [shape]; rfl) (by rw [shape]; rfl)
      rw [shape, noResponse_owned _ owner]
      rfl

end Sys2Proof.Machine
end

section
/-! PROOFS. A processor OPEN of a device that a context owns (R52, R152). -/

namespace Sys2Proof.Machine

/-- The record of a device that a processor OPEN has reached (R39, R42, R52). -/
def State.openedRecord (s : State) (d : DevId) (a : Access) : Device :=
  { s.device d with
    tag := commandTag a.data, pending := true, op := s.startOperation d .opn, deferred := none }

/-- A processor OPEN, no command being pending: what stands when the context that owns the device is told. -/
theorem processorOpens_told {t : State} {d : DevId} {k : CtxId} (a : Access) (idle : (t.device d).pending = false)
    (owner : (t.device d).owner = .context k) :
    ∃ v D, (∀ off ∈ t.dirty, off ∈ D) ∧
      v = { t with
        image := t.image.write a.addr.toNat (commandWord .opn 0 (commandTag a.data)),
        devices := t.devices.set d (t.openedRecord d a),
        injections := t.injections.filter fun e => !(e.device == d), dirty := D } ∧
      t.processorOpens d a = (onOperatorOpen assign k d (t.countedClosed d) v).tellIfObserved (some k) d .opn := by
  obtain ⟨w, hw⟩ : ∃ w, w = t.storeWord a.addr (commandWord .opn 0 (commandTag a.data)) := ⟨_, rfl⟩
  have idle_w : (w.device d).pending = false := by rw [hw]; exact idle
  obtain ⟨D₁, marked₁, reached⟩ := commandReaches_shape w d .opn (commandTag a.data) true (not_pending idle_w)
  rw [recordedReach_idle idle_w, commanded_idle _ _ _ idle_w] at reached
  obtain ⟨x, hx⟩ : ∃ x, x = w.commandReaches d .opn (commandTag a.data) true := ⟨_, rfl⟩
  have shape := hx.trans reached
  obtain ⟨D, marked, dropped⟩ := dropInjections_shape x fun e => e.device == d
  obtain ⟨v, hv⟩ : ∃ v, v = (x.dropInjection d).updDevice d fun y => { y with deferred := none } := ⟨_, rfl⟩
  have whole : v = { t with
      image := t.image.write a.addr.toNat (commandWord .opn 0 (commandTag a.data)),
      devices := t.devices.set d (t.openedRecord d a),
      injections := t.injections.filter fun e => !(e.device == d), dirty := D } := by
    rw [hv]
    unfold State.dropInjection
    rw [dropped]
    unfold State.updDevice State.setDevice State.device
    rw [shape, hw]
    dsimp only
    rw [Sixteen.get_set_same, Sixteen.set_set]
    rfl
  have owned : v.ownerContext d = some k := by
    refine ownerContext_of_context ?_
    rw [whole]
    unfold State.device
    rw [Sixteen.get_set_same]
    exact owner
  refine ⟨v, D, fun off mem => marked off ?_, whole, ?_⟩
  · rw [shape, hw]
    exact marked₁ off (List.mem_append_left _ (by rw [hw]; exact mem))
  · unfold State.processorOpens
    dsimp only
    rw [← hw, ← hx, ← hv, ownerContext_of_context owner]
    unfold State.tellOwner
    rw [owned]
    rfl

/-- The phases in which an OPEN of the route device ends the transfer (R152). -/
def Phase.routeCloses (p : Phase) : Prop := p = .closing ∨ p = .restoring ∨ p = .closingParallel ∨ p = .openingOld

theorem onOperatorOpen_route {s : State} {k : CtxId} {d : DevId} (asg : State → State) (closed : Bool)
    (active : s.active k = true) (route : (s.context k).routeDevice = some d) (phase : (s.context k).phase.routeCloses) :
    onOperatorOpen asg k d closed s = endContext asg k .operatorOpen FourSet.none s := by
  unfold onOperatorOpen
  dsimp only
  rw [active, route]
  rcases phase with phase | phase | phase | phase <;> simp [phase]

/-- The notice of an operator's open that ends nothing. -/
def State.hearsOpen (s : State) (k : CtxId) (d : DevId) : Prop :=
  s.active k = true ∧ s.tieInside d (s.context k).set = false ∧
    ((s.context k).routeDevice ≠ some d ∨ ¬(s.context k).phase.routeCloses)

theorem onOperatorOpen_cases {s : State} {k : CtxId} {d : DevId} (asg : State → State) (closed : Bool)
    (hears : s.hearsOpen k d) :
    onOperatorOpen asg k d closed s =
      match (s.context k).phase with
      | .opening =>
        if s.opensInOpening (s.context k) d then
          (s.countOwn k d).updContext k fun c =>
            { c with opening := c.opening.set d true, failed := c.failed.set d false }
        else s
      | .syncWait => if s.isOldDevice (s.context k) d then operatorOpensOld asg k d s else s
      | .closingParallel =>
        if s.isOldDevice (s.context k) d then
          (if (s.context k).claim = .held then operatorOpensOld asg k d s else s.countOwn k d)
        else s
      | .openingOld => if s.isOldDevice (s.context k) d then s.countOwn k d else s
      | .restoring =>
        if ((s.context k).restoreList.drop (s.context k).cursor).contains d then dropFeeder asg k d s else s
      | _ => s := by
  obtain ⟨active, apart, other⟩ := hears
  have stays : ¬((decide ((s.context k).routeDevice = some d) && ((s.context k).phase == .closing ||
      (s.context k).phase == .restoring || (s.context k).phase == .closingParallel ||
      (s.context k).phase == .openingOld)) = true) := by
    simp only [Bool.and_eq_true, Bool.or_eq_true, beq_iff_eq, decide_eq_true_eq]
    rintro ⟨route, ((closing | restoring) | parallel) | old⟩
    · exact other.elim (fun ne => ne route) fun not => not (.inl closing)
    · exact other.elim (fun ne => ne route) fun not => not (.inr (.inl restoring))
    · exact other.elim (fun ne => ne route) fun not => not (.inr (.inr (.inl parallel)))
    · exact other.elim (fun ne => ne route) fun not => not (.inr (.inr (.inr old)))
  unfold onOperatorOpen
  dsimp only
  rw [active, if_neg (by simp), if_neg stays, apart, if_neg (by simp)] <;> rfl

theorem isOldDevice_iff (s : State) (c : Context) (d : DevId) :
    s.isOldDevice c d = true ↔ c.oldTie = some d ∨ ∃ n, s.incomerSource d = some n ∧ c.oldSources.get n = true := by
  unfold State.isOldDevice
  cases s.incomerSource d with
  | none => simp
  | some n => simp

theorem restoreNext_running {s : State} {k : CtxId} (asg : State → State)
    (left : (s.context k).restoreList.drop (s.context k).cursor ≠ []) (running : (s.context k).timer.isSome = true) :
    restoreNext asg k s = s := by
  have within : ¬(s.context k).restoreList.length ≤ (s.context k).cursor := fun past => left (List.drop_eq_nil_of_le past)
  unfold restoreNext
  dsimp only
  split
  · rfl
  · rfl

theorem steady_after {t v : State} {k : CtxId} {c : Context} (steady : t.steady) (contexts : v.contexts = t.contexts.set k c)
    (freed : v.freed = t.freed) (phase : c.phase ≠ .deadWait) : v.steady :=
  steady_setContext steady contexts freed fun both => phase both.2

/-- The record of a context that counts an operator's OPEN in OPENING as its own (R152; log 32). -/
def Context.reopens (d : DevId) (c : Context) : Context :=
  { c with sent := c.sent.set d true, opening := c.opening.set d true, failed := c.failed.set d false }

/-- The record of a context whose restore list a feeder has left, `f` what is outstanding then (R152). -/
def Context.unlisted (d : DevId) (f : Option DevId) (c : Context) : Context :=
  { c with restoreList := c.restoreList.filter (· != d), restored := c.restored.set d false, restoring := f }

/-- Settles O33: a processor OPEN of a captured device. -/
theorem operatorOpensACapturedDevice : Obligations.OperatorOpensACapturedDevice := by
  intro s t a d k c x q opening owner active context apart steady open_ record queue
  obtain ⟨granted, ht, hclass, code, idle⟩ := opening
  subst context
  obtain ⟨v, D₁, marked₁, hv, told⟩ := processorOpens_told a idle owner
  have opened : t.openedRecord d a = x := by
    rw [record]
    unfold State.openedRecord
    rw [startOperation_moves open_]
  rw [opened, ← queue] at hv
  have row := exec_processorOpen_granted granted ht hclass code
  rw [told] at row
  have vcontext : v.context k = t.context k := by rw [hv]; rfl
  have active_v : v.active k = true := by unfold State.active; rw [vcontext]; exact active
  have apart_v : v.tieInside d (v.context k).set = false := by
    rw [vcontext, hv]
    exact apart
  have position : ∀ u : State, u.devices = v.devices → (u.device d).observed ≠ Cmd.opn.target := fun u same => by
    unfold State.device
    rw [same, hv, Sixteen.get_set_same, record]
    exact open_
  have old : ∀ c, v.isOldDevice c d = t.isOldDevice c d := fun c => by rw [hv]; rfl
  refine ⟨fun phase => ?_, fun phase other member => ?_, fun phase claim timer member => ?_,
    fun f y phase other mem left timer hf => ?_⟩
  · have hears : v.hearsOpen k d := ⟨active_v, apart_v, .inr (by
      rw [vcontext, phase]
      rintro (h | h | h | h) <;> cases h)⟩
    rw [onOperatorOpen_cases assign _ hears, vcontext, phase] at row
    dsimp only at row
    rw [tellIfObserved_not (position v rfl)] at row
    rw [row, hv]
    exact next_finish steady marked₁ rfl rfl
  · have hears : v.hearsOpen k d := ⟨active_v, apart_v, .inl (by rw [vcontext]; exact other)⟩
    rw [onOperatorOpen_cases assign _ hears, vcontext, phase] at row
    dsimp only at row
    have opens : v.opensInOpening (t.context k) d = true := by
      unfold State.opensInOpening
      rw [old, Bool.and_eq_true]
      refine ⟨bne_iff_ne.2 other, ?_⟩
      simp only [Bool.or_eq_true]
      rcases member with is | is | is | is | is | is
      · exact .inl (.inl (.inl (.inl is)))
      · exact .inl (.inl (.inr is))
      · exact .inl (.inl (.inl (.inr ((isOldDevice_iff _ _ _).2 (.inl is)))))
      · exact .inl (.inl (.inl (.inr ((isOldDevice_iff _ _ _).2 (.inr is)))))
      · exact .inl (.inr is)
      · exact .inr is
    rw [if_pos opens] at row
    rw [tellIfObserved_not (position _ (by rfl))] at row
    have whole : ((v.countOwn k d).updContext k fun c =>
        { c with opening := c.opening.set d true, failed := c.failed.set d false }) =
        { v with contexts := t.contexts.set k ((t.context k).reopens d) } := by
      unfold State.countOwn
      rw [updContext_updContext]
      unfold State.updContext State.setContext
      rw [vcontext, hv]
      rfl
    rw [whole, hv] at row
    rw [row]
    refine next_finish_steady ?_ marked₁
    exact steady_after (k := k) steady rfl rfl (by unfold Context.reopens; dsimp only; rw [phase]; decide)
  · have hears : v.hearsOpen k d := ⟨active_v, apart_v, .inr (by
      rw [vcontext, phase]
      rintro (h | h | h | h) <;> cases h)⟩
    rw [onOperatorOpen_cases assign _ hears, vcontext, phase] at row
    dsimp only at row
    rw [old, if_pos ((isOldDevice_iff _ _ _).2 member)] at row
    obtain ⟨w, hw⟩ : ∃ w, w = v.countOwn k d := ⟨_, rfl⟩
    have wcontext : w.context k = { t.context k with sent := (t.context k).sent.set d true } := by
      rw [hw, ← vcontext]
      exact context_updContext _ _ _
    have wrest : w = { v with contexts := t.contexts.set k { t.context k with sent := (t.context k).sent.set d true } } := by
      rw [hw]
      unfold State.countOwn State.updContext State.setContext
      rw [vcontext, hv]
    obtain ⟨D, marked, gone⟩ := goingBack_waiting (s := w) (k := k) none (by rw [wcontext]; exact claim)
    obtain ⟨y, hy⟩ : ∃ y, y = w.goingBack k none := ⟨_, rfl⟩
    have shape := hy.trans gone
    have ycontext : y.context k = { (t.context k).sentBack with sent := (t.context k).sent.set d true } := by
      have back : y.context k = (w.context k).goneBack none := by
        rw [shape]
        exact Three.get_set_same _ _ _
      rw [back, wcontext]
      unfold Context.goneBack Context.sentBack
      dsimp only
      rw [timer]
      rfl
    have waits : operatorOpensOld assign k d v = y.updContext k fun c => { c with reroute := true } := by
      unfold operatorOpensOld
      rw [returnToSelect_eq, ← hw, ← hy]
      refine if_pos ?_
      have unsettled : (!v.observedIs (some d) .opened) = true := by
        have here : (v.device d).observed ≠ .opened := position v rfl
        unfold State.observedIs
        simpa using here
      unfold State.mustSettle
      dsimp only
      rw [ycontext]
      unfold Context.sentBack
      dsimp only
      rw [phase]
      exact unsettled
    rw [waits] at row
    have whole : (y.updContext k fun c => { c with reroute := true }) =
        { t with
          image := t.image.write a.addr.toNat (commandWord .opn 0 (commandTag a.data)),
          devices := t.devices.set d x,
          injections := q.filter fun e => !(e.code == .cls && e.owner == .context k),
          contexts := t.contexts.set k { (t.context k).sentBack with sent := (t.context k).sent.set d true, reroute := true },
          sync := { t.sync with claims := t.sync.claims.filter (· != k), due := t.sync.due.filter (· != k) },
          dirty := D } := by
      unfold State.updContext State.setContext
      rw [ycontext, shape, wrest, hv]
      dsimp only
      rw [Three.set_set, Three.set_set]
    rw [tellIfObserved_not (position _ (by
      show y.devices = v.devices
      rw [shape, wrest])), whole] at row
    rw [row]
    refine next_finish_steady ?_ fun off mem => marked off (by rw [wrest, hv]; exact marked₁ off mem)
    exact steady_after (k := k) steady rfl rfl (by unfold Context.sentBack; dsimp only; rw [phase]; decide)
  · have hears : v.hearsOpen k d := ⟨active_v, apart_v, .inl (by rw [vcontext]; exact other)⟩
    rw [onOperatorOpen_cases assign _ hears, vcontext, phase] at row
    dsimp only at row
    rw [if_pos (List.contains_iff_mem.2 mem)] at row
    obtain ⟨w, hw⟩ : ∃ w : State, w = { v with contexts := t.contexts.set k ((t.context k).unlisted d f) } := ⟨_, rfl⟩
    have wcontext : w.context k = (t.context k).unlisted d f := by
      rw [hw]
      exact Three.get_set_same _ _ _
    have drops : dropFeeder assign k d v = w := by
      have enters : dropFeeder assign k d v = restoreNext assign k w := by
        unfold dropFeeder State.updContext State.setContext
        rw [vcontext, hw, hf, hv]
        rfl
      rw [enters]
      exact restoreNext_running assign (by rw [wcontext]; exact left) (by rw [wcontext, Context.unlisted, timer]; rfl)
    rw [drops, tellIfObserved_not (position w (by rw [hw])), hw, hv] at row
    rw [row]
    refine next_finish_steady ?_ marked₁
    exact steady_after (k := k) steady rfl rfl (by unfold Context.unlisted; dsimp only; rw [phase]; decide)

end Sys2Proof.Machine
end

section
/-! PROOFS. What no reaction of the Section Controller or the Transfer Engine changes (`Stays`, `Leaves`): the store, the
latch, what is known of the devices and the states of the sources. It ties the state that an event leaves to the one in
which the event met its conditions. Chapters 6 to 9 only move owners, sections, requests, contexts and run demand. -/

namespace Sys2Proof.Machine

/-! ## The standing board -/

/-- A device's record less its owner and its deferred word. -/
def Device.standing (x : Device) : Device := { x with owner := .processor, deferred := none }

/-- A source less its run demand and its cool-down. -/
def Source.standing (x : Source) : Source := { x with demand := false, cool := none }

/-- The part of the state that no reaction changes. -/
def State.standing (s : State) : ConfigStore × Latch × (DevId → Device) × (SrcId → Source) :=
  (s.store, s.latch, fun d => (s.device d).standing, fun n => (s.source n).standing)

/-- A copy waits, no word is deferred and no slot is marked: assignment takes nothing, and a frame frees no context. -/
structure State.fresh (s : State) : Prop where
  settled : s.settled
  waits : s.store.pendingCopy.isSome = true
  noDeferred : s.noDeferred
  noMarks : s.noMarks

/-- A reaction that ends no context. -/
structure Stays (s u : State) : Prop where
  standing : u.standing = s.standing
  fresh : s.fresh → u.fresh
  idle : s.fresh → ∀ k, s.active k = false → u.active k = false

/-- `fresh`, or what is left of it once context k has ended. -/
def State.restingBut (s : State) (k : CtxId) : Prop :=
  s.settled ∧ s.store.pendingCopy.isSome = true ∧ s.noDeferred ∧ (s.noMarks ∨ s.active k = false)

/-- A reaction that may end context k. -/
structure Leaves (k : CtxId) (s u : State) : Prop where
  standing : u.standing = s.standing
  resting : s.fresh → u.restingBut k

theorem Stays.refl (s : State) : Stays s s := ⟨rfl, id, fun _ _ h => h⟩

theorem Stays.trans {s t u : State} (h : Stays s t) (g : Stays t u) : Stays s u :=
  ⟨g.standing.trans h.standing, fun x => g.fresh (h.fresh x), fun x k i => g.idle (h.fresh x) k (h.idle x k i)⟩

theorem Stays.leaves {s u : State} (h : Stays s u) (k : CtxId) : Leaves k s u :=
  ⟨h.standing, fun x => ⟨(h.fresh x).settled, (h.fresh x).waits, (h.fresh x).noDeferred, .inl (h.fresh x).noMarks⟩⟩

theorem Leaves.refl (k : CtxId) (s : State) : Leaves k s s := (Stays.refl s).leaves k

theorem Stays.then {k : CtxId} {s t u : State} (h : Stays s t) (g : Leaves k t u) : Leaves k s u :=
  ⟨g.standing.trans h.standing, fun x => g.resting (h.fresh x)⟩

theorem Stays.foldl {α : Type} {f : State → α → State} (h : ∀ s x, Stays s (f s x)) (xs : List α) (s : State) :
    Stays s (xs.foldl f s) := by
  induction xs generalizing s with
  | nil => exact .refl s
  | cons x xs ih => exact (h s x).trans (ih _)

theorem fold_standing {α : Type} {f : State → α → State} (h : ∀ s x, (f s x).standing = s.standing) (xs : List α)
    (s : State) : (xs.foldl f s).standing = s.standing := by
  induction xs generalizing s with
  | nil => rfl
  | cons x xs ih => exact (ih _).trans (h s x)

/-- The fields that `Stays` rests on. -/
def State.grounds (s : State) :
    ConfigStore × Latch × Sixteen Device × Four Source × Three Bool × Three (Option Slot) × (CtxId → Bool) :=
  (s.store, s.latch, s.devices, s.sources, s.freed, s.recorder.marks, s.active)

theorem Stays.light {s u : State} (h : u.grounds = s.grounds) : Stays s u := by
  simp only [State.grounds, Prod.mk.injEq] at h
  obtain ⟨store, latch, devices, sources, freed, marks, active⟩ := h
  have device : u.device = s.device := by
    unfold State.device
    rw [devices]
  have source : u.source = s.source := by
    unfold State.source
    rw [sources]
  refine ⟨by unfold State.standing; rw [store, latch, device, source], fun x => ?_, fun _ k => by rw [active]; exact id⟩
  refine ⟨by rw [State.settled, freed]; exact x.settled, by rw [store]; exact x.waits, ?_, ?_⟩
  · intro d
    rw [device]
    exact x.noDeferred d
  · intro k
    rw [marks]
    exact x.noMarks k

/-! ## The operations over the state -/

theorem Stays.markAll (s : State) (offs : List Nat) : Stays s (s.markAll offs) := by
  rw [markAll_eq]
  exact .light rfl

theorem Stays.setSectionState (s : State) (b : SecId) (st : SectionState) : Stays s (s.setSectionState b st) := by
  unfold State.setSectionState
  split
  · exact .refl s
  · exact .light rfl

theorem Stays.setSectionStates (s : State) (bs : List SecId) (st : SectionState) : Stays s (s.setSectionStates bs st) :=
  .foldl (fun s b => .setSectionState s b st) bs s

theorem Stays.setQueue (s : State) (q : List Request) : Stays s (s.setQueue q) :=
  (Stays.light rfl : Stays s { s with queue := q }).trans (.markAll _ _)

theorem active_setContext (s : State) (k j : CtxId) (c : Context) :
    (s.setContext k c).active j = if j = k then c.state == .active else s.active j := by
  unfold State.active State.context State.setContext
  dsimp only
  rw [Three.get_set]
  split <;> rfl

theorem active_updContext (s : State) (k : CtxId) {f : Context → Context} (keeps : ∀ c, (f c).state = c.state) :
    (s.updContext k f).active = s.active := by
  funext j
  unfold State.updContext
  rw [active_setContext, keeps]
  split
  · next is =>
    subst is
    rfl
  · rfl

theorem Stays.updContext (s : State) (k : CtxId) (f : Context → Context)
    (keeps : ∀ c, (f c).state = c.state := by intro c; rfl) : Stays s (s.updContext k f) := by
  refine .light ?_
  unfold State.grounds
  rw [active_updContext s k keeps]
  rfl

/-- A change of a context's record that does not make it ACTIVE. -/
theorem Stays.endRecord (s : State) (k : CtxId) {f : Context → Context} (ends : ∀ c, (f c).state ≠ .active) :
    Stays s (s.updContext k f) := by
  refine ⟨rfl, fun x => ⟨x.settled, x.waits, x.noDeferred, x.noMarks⟩, fun _ j idle => ?_⟩
  unfold State.updContext
  rw [active_setContext]
  split
  · exact beq_eq_false_iff_ne.2 (ends _)
  · exact idle

theorem Stays.setOwner (s : State) (d : DevId) (o : Owner) : Stays s (s.setOwner d o) := by
  obtain ⟨D, _, shape⟩ := setOwner_shape s d o
  have device : ∀ e, ((s.setOwner d o).device e).standing = (s.device e).standing ∧
      ((s.setOwner d o).device e).deferred = (s.device e).deferred := fun e => by
    rw [setOwner_device]
    split
    · next is =>
      subst is
      exact ⟨rfl, rfl⟩
    · exact ⟨rfl, rfl⟩
  refine ⟨?_, fun x => ?_, fun _ k => by rw [shape]; exact id⟩
  · unfold State.standing
    rw [show (fun e => ((s.setOwner d o).device e).standing) = fun e => (s.device e).standing from
      funext fun e => (device e).1, shape]
    rfl
  · refine ⟨by rw [shape]; exact x.settled, by rw [shape]; exact x.waits, fun e => ?_, by rw [shape]; exact x.noMarks⟩
    rw [(device e).2]
    exact x.noDeferred e

theorem Stays.enqueue (s : State) (d : DevId) (code : Cmd) (o : Enqueuer) : Stays s (s.enqueue d code o) := by
  unfold State.enqueue
  split
  · exact .light rfl
  · exact .refl s

theorem Stays.dropInjections (s : State) (p : Injection → Bool) : Stays s (s.dropInjections p) := by
  obtain ⟨D, _, shape⟩ := dropInjections_shape s p
  rw [shape]
  exact .light rfl

theorem Stays.cancelCloses (s : State) (k : CtxId) : Stays s (s.cancelCloses k) := .dropInjections s _

theorem Stays.releaseSync (s : State) : Stays s s.releaseSync := by
  unfold State.releaseSync
  split
  · next h _ => exact (Stays.updContext s h.context Context.unclaimed).trans (.light rfl)
  · exact .refl s

theorem Stays.withdrawClaim (s : State) (k : CtxId) : Stays s (s.withdrawClaim k) := by
  unfold State.withdrawClaim
  split
  · exact .refl s
  · exact (Stays.updContext s k Context.unclaimed).trans (.light rfl)
  · exact (Stays.releaseSync s).trans (.updContext _ _ _)

theorem demanded_standing (s : State) (n : SrcId) : (s.demanded n).standing = (s.source n).standing := by
  unfold State.demanded Source.standing
  dsimp only
  split
  · rfl
  · split
    · rfl
    · split <;> rfl

theorem Stays.workOutDemand (s : State) (n : SrcId) : Stays s (s.workOutDemand n) := by
  obtain ⟨D, _, shape⟩ := workOutDemand_shape s n
  have source : (fun m => ((s.workOutDemand n).source m).standing) = fun m => (s.source m).standing := by
    funext m
    rw [source_workOutDemand]
    split
    · next is =>
      subst is
      exact demanded_standing s m
    · rfl
  refine ⟨?_, fun x => ?_, fun _ k => by rw [shape]; exact id⟩
  · unfold State.standing
    rw [source, shape]
    rfl
  · rw [shape]
    exact ⟨x.settled, x.waits, x.noDeferred, x.noMarks⟩

theorem Stays.workOutDemands (s : State) : Stays s s.workOutDemands := .foldl .workOutDemand _ s

theorem raise_standing (s : State) (i : Incident) : (s.raise i).standing = s.standing := by
  have reuse : ∀ slot, (s.reuseSlot slot).standing = s.standing := fun slot => by
    unfold State.reuseSlot
    split
    · next k _ =>
      unfold State.freeContext
      exact (Stays.markAll (s.setContext k Context.blank) _).standing
    · rfl
  unfold State.raise
  rw [(Stays.markAll _ _).standing]
  exact reuse _

theorem raiseEnd_standing (k : CtxId) (r : Result) (s : State) : (s.raiseEnd k r).standing = s.standing := by
  unfold State.raiseEnd
  dsimp only
  rw [← raise_standing s (s.transferEnd k r)]
  generalize s.raise (s.transferEnd k r) = v
  rfl

end Sys2Proof.Machine
end

section
/-! PROOFS. Every reaction of the Section Controller and the Transfer Engine `Stays` or `Leaves`, given that context
assignment `Stays`; and context assignment does. -/

namespace Sys2Proof.Machine

section
variable {asg : State → State} (hA : ∀ s, Stays s (asg s))
include hA

/-! ## Evaluation and the queue (R95 to R100) -/

omit hA in
theorem Stays.queueSections (s : State) (e : Request) : Stays s (s.queueSections e) := .setSectionStates s _ _

theorem Stays.placeSupply (ev : List SecId → State → State) (hev : ∀ bs s, Stays s (ev bs s)) (e : Request) (s : State) :
    Stays s (s.placeSupply asg ev e) := by
  unfold State.placeSupply
  exact ((((Stays.setQueue s _).trans (.queueSections _ _)).trans (.setSectionStates _ _ _)).trans (hev _ _)).trans (hA _)

theorem Stays.placeReturn (e : Request) (s : State) : Stays s (s.placeReturn asg e) := by
  unfold State.placeReturn
  split
  · exact .refl s
  · exact ((Stays.setQueue s _).trans (.queueSections _ _)).trans (hA _)

theorem Stays.evaluateReturnSet (f : SrcId) (cause : Option Slot) (s : State) (x : FourSet) :
    Stays s (State.evaluateReturnSet asg f cause s x) := by
  unfold State.evaluateReturnSet
  dsimp only
  split
  · split
    · exact .placeReturn hA _ s
    · exact .refl s
  · exact .refl s

theorem Stays.evaluateReturn (b : SecId) (cause : Option Slot) (s : State) : Stays s (s.evaluateReturn asg b cause) := by
  unfold State.evaluateReturn
  dsimp only
  split
  · split
    · exact .foldl (Stays.evaluateReturnSet hA _ cause) _ s
    · exact .refl s
  · exact .refl s

theorem Stays.evaluateN (n : Nat) (cause : Option Slot) (bs : List SecId) (s : State) :
    Stays s (Machine.evaluateN asg n cause bs s) := by
  induction n generalizing cause bs s with
  | zero => exact .refl s
  | succ n ih =>
    unfold Machine.evaluateN
    refine .foldl (fun s b => ?_) _ s
    dsimp only
    split
    · split
      · exact .refl s
      · split
        · exact .placeSupply hA _ (fun bs s => ih none bs s) _ s
        · exact .setSectionStates s _ _
    · exact .evaluateReturn hA b cause s

theorem Stays.evaluate (cause : Option Slot) (bs : List SecId) (s : State) : Stays s (s.evaluate asg cause bs) :=
  .evaluateN hA 5 cause bs s

omit hA in
theorem Stays.removeRequest (s : State) (e : Request) : Stays s (s.removeRequest e) := .setQueue s _

theorem Stays.withdrawArmed (e : Request) (s : State) : Stays s (s.withdrawArmed asg e) :=
  ((Stays.removeRequest s e).trans (.setSectionStates _ _ _)).trans (.evaluate hA _ _ _)

omit hA in
theorem Stays.withdrawHeld (e : Request) (s : State) : Stays s (s.withdrawHeld e) :=
  (Stays.removeRequest s e).trans (.setSectionStates _ _ _)

/-! ## Ending (R124, R156) -/

omit hA in
theorem Stays.command (s : State) (k : CtxId) (code : Cmd) (d : Option DevId) : Stays s (s.command k code d) := by
  unfold State.command
  split
  · split
    · exact .enqueue s _ _ _
    · exact .refl s
  · exact .refl s

omit hA in
theorem Stays.openRoute (s : State) (k : CtxId) : Stays s (s.openRoute k) := by
  unfold State.openRoute
  split
  · split
    · exact .command s _ _ _
    · exact .refl s
  · exact .refl s

omit hA in
theorem Stays.startTimer (s : State) (k : CtxId) (t : TimerKind) (ms : Nat) : Stays s (s.startTimer k t ms) :=
  .updContext s k _

omit hA in
theorem Stays.parallelRule (s : State) (k : CtxId) : Stays s (s.parallelRule k) := by
  unfold State.parallelRule
  dsimp only
  split
  · exact .refl s
  · split
    · exact .command s _ _ _
    · exact .refl s

omit hA in
/-- Emptying a deferred slot. -/
theorem undefer_standing (s : State) (d : DevId) :
    (s.updDevice d fun x => { x with deferred := none }).standing = s.standing := by
  have device : ∀ e, ((s.updDevice d fun x => { x with deferred := none }).device e).standing = (s.device e).standing :=
    fun e => by
      unfold State.updDevice State.setDevice State.device
      dsimp only
      rw [Sixteen.get_set]
      split
      · next is =>
        subst is
        rfl
      · rfl
  unfold State.standing
  rw [funext device]
  rfl

omit hA in
theorem recheck_standing (k : CtxId) (s : State) (d : DevId) : (State.recheck k s d).standing = s.standing := by
  unfold State.recheck
  dsimp only
  split
  · rfl
  · split
    · exact (Stays.enqueue _ _ _ _).standing.trans (undefer_standing s d)
    · exact (raise_standing _ _).trans (undefer_standing s d)
    · exact undefer_standing s d

omit hA in
theorem Stays.recheck (k : CtxId) (s : State) (d : DevId) : Stays s (State.recheck k s d) :=
  ⟨recheck_standing k s d, fun x => by rw [recheck_nothing (x.noDeferred d)]; exact x,
    fun x j => by rw [recheck_nothing (x.noDeferred d)]; exact id⟩

omit hA in
theorem Stays.release (s : State) (k : CtxId) : Stays s (s.release k) := by
  unfold State.release
  exact ((Stays.cancelCloses s k).trans (.foldl (fun s d => .setOwner s d _) _ _)).trans (.foldl (Stays.recheck k) _ _)

theorem Stays.endSections (k : CtxId) (r : Result) (named : FourSet) (s : State) :
    Stays s (s.endSections asg k r named) := by
  unfold State.endSections
  dsimp only
  refine Stays.trans ?_ (.evaluate hA _ _ _)
  have moved := Stays.foldl (fun s b => .setSectionState s b (sectionAfter r (named.get b)))
    (FourSet.toList (s.context k).set) s
  split
  · exact moved.trans (.foldl (fun s b => (.light rfl : Stays s (State.handOver _ s b))) _ _)
  · exact moved

omit hA in
theorem Stays.beginEnd (k : CtxId) (r : Result) (s : State) : Stays s (s.beginEnd k r) :=
  ((Stays.parallelRule s k).trans (.withdrawClaim _ k)).trans (.endRecord _ k fun _ => by
    unfold Context.ending
    exact fun is => ContextState.noConfusion is)

omit hA in
theorem active_beginEnd (k : CtxId) (r : Result) (s : State) : (s.beginEnd k r).active k = false := by
  unfold State.beginEnd State.updContext
  rw [active_setContext, if_pos rfl]
  rfl

theorem Leaves.endContext (k : CtxId) (r : Result) (named : FourSet) (s : State) :
    Leaves k s (Machine.endContext asg k r named s) := by
  rw [endContext_eq]
  have rest : Stays (s.beginEnd k r) (State.endSections asg k r named ((s.beginEnd k r).workOutDemands.release k)) :=
    ((Stays.workOutDemands _).trans (.release _ k)).trans (.endSections hA k r named _)
  have whole := (Stays.beginEnd k r s).trans rest
  obtain ⟨v, hv⟩ : ∃ v, v = State.endSections asg k r named ((s.beginEnd k r).workOutDemands.release k) := ⟨_, rfl⟩
  rw [← hv] at rest whole ⊢
  refine ⟨(raiseEnd_standing k r v).trans whole.standing, fun x => ?_⟩
  have fresh := whole.fresh x
  have idle := rest.idle ((Stays.beginEnd k r s).fresh x) k (active_beginEnd k r s)
  obtain ⟨D, _, shape⟩ := raiseEnd_shape (s := v) k r (slotUnmarked_of_noMarks fresh.noMarks)
  rw [shape]
  exact ⟨fresh.settled, fresh.waits, fresh.noDeferred, .inr idle⟩

/-! ## RESTORING (R120 to R123) -/

theorem Leaves.restoreWalk (k : CtxId) (ds : List DevId) (s : State) : Leaves k s (Machine.restoreWalk asg k ds s) := by
  induction ds generalizing s with
  | nil => exact .endContext hA k _ _ s
  | cons d ds ih =>
    unfold Machine.restoreWalk
    split
    · exact (Stays.updContext s k _).then (ih _)
    · split
      · exact (Stays.updContext s k _).then (ih _)
      · exact ((Stays.enqueue s _ _ _).trans (.updContext _ k _)).leaves k

theorem Leaves.restoreNext (k : CtxId) (s : State) : Leaves k s (Machine.restoreNext asg k s) := by
  unfold Machine.restoreNext
  dsimp only
  split
  · exact .refl k s
  · split
    · exact .endContext hA k _ _ s
    · split
      · exact .refl k s
      · exact .restoreWalk hA k _ s

theorem Leaves.enterRestoring (k : CtxId) (s : State) : Leaves k s (Machine.enterRestoring asg k s) :=
  (Stays.updContext s k _).then (.restoreNext hA k _)

theorem Leaves.settleFeeder (k : CtxId) (s : State) : Leaves k s (Machine.settleFeeder asg k s) :=
  (Stays.updContext s k _).then (.restoreNext hA k _)

/-! ## OPENING, DEAD_WAIT and SELECT (R111 to R117) -/

theorem Leaves.leaveOpening (k : CtxId) (s : State) : Leaves k s (Machine.leaveOpening asg k s) := by
  unfold Machine.leaveOpening
  dsimp only
  split
  · exact .endContext hA k _ _ s
  · split
    · exact ((Stays.updContext s k _).trans (.startTimer _ k _ _)).leaves k
    · exact .endContext hA k _ _ s

theorem Leaves.enterOpening (k : CtxId) (s : State) : Leaves k s (Machine.enterOpening asg k s) := by
  unfold Machine.enterOpening
  dsimp only
  split
  · exact (Stays.updContext s k _).then (.endContext hA k _ _ _)
  · have queued : ∀ ds s, Stays s (List.foldl (fun s d => State.enqueue s d .opn (.context k)) s ds) :=
      fun ds s => .foldl (fun s d => .enqueue s d _ _) ds s
    split
    · exact (((Stays.updContext s k _).trans (queued _ _)).trans (.updContext _ k _)).then (.leaveOpening hA k _)
    · exact (((Stays.updContext s k _).trans (queued _ _)).trans (.updContext _ k _)).leaves k

theorem Leaves.takeRoute (k : CtxId) (r : Route) (s : State) : Leaves k s (Machine.takeRoute asg k r s) :=
  ((Stays.updContext s k _).trans (.workOutDemands _)).then (.enterOpening hA k _)

omit hA in
theorem Stays.enterAwait (s : State) (k : CtxId) (n : SrcId) : Stays s (s.enterAwait k n) := by
  unfold State.enterAwait
  dsimp only
  split
  · exact (Stays.updContext s k _).trans (.workOutDemands _)
  · exact ((Stays.startTimer s k _ _).trans (.updContext _ k _)).trans (.workOutDemands _)

theorem Leaves.selectList (k : CtxId) (s : State) : Leaves k s (Machine.selectList asg k s) := by
  unfold Machine.selectList
  dsimp only
  split
  · exact .endContext hA k _ _ s
  · split
    · exact .takeRoute hA k _ s
    · split
      · exact (Stays.enterAwait s k _).leaves k
      · exact .endContext hA k _ _ s

theorem Leaves.selectFixed (k : CtxId) (r : Route) (s : State) : Leaves k s (Machine.selectFixed asg k r s) := by
  unfold Machine.selectFixed
  dsimp only
  split
  · exact .takeRoute hA k r s
  · split
    · exact .endContext hA k _ _ s
    · exact (Stays.updContext s k _).then (.selectList hA k _)

theorem Leaves.enterSelect (k : CtxId) (s : State) : Leaves k s (Machine.enterSelect asg k s) := by
  unfold Machine.enterSelect
  dsimp only
  split
  · exact (Stays.updContext s k _).then (.selectFixed hA k _ _)
  · exact (Stays.updContext s k _).then (.selectList hA k _)

theorem Leaves.settleOpen (k : CtxId) (d : DevId) (failed : Bool) (s : State) :
    Leaves k s (Machine.settleOpen asg k d failed s) := by
  unfold Machine.settleOpen
  extract_lets t
  have first : Stays s t := .updContext s k _
  split
  · unfold Machine.openingSettled
    dsimp only
    split
    · exact first.then (.enterSelect hA k t)
    · exact first.then (.leaveOpening hA k t)
  · exact first.leaves k

/-! ## Back to SELECT and the closed transition (R134 to R143) -/

omit hA in
theorem exclude_state (c : Context) (r : Option Route) : (c.exclude r).state = c.state := by
  unfold Context.exclude
  split
  · split <;> rfl
  · rfl

theorem Leaves.returnToSelect (k : CtxId) (excluded : Option Route) (oldUnsettled : Bool) (s : State) :
    Leaves k s (Machine.returnToSelect asg k excluded oldUnsettled s) := by
  unfold Machine.returnToSelect
  dsimp only
  have back := ((Stays.updContext s k (fun c => c.exclude excluded) fun c => exclude_state c _).trans
    (.withdrawClaim _ k)).trans ((Stays.updContext _ k fun c =>
      { c with transition := .opn, timer := keptTimer c.timer, restoring := none }).trans (.cancelCloses _ k))
  split
  · exact (back.trans (.updContext _ k _)).leaves k
  · exact back.then (.enterSelect hA k _)

theorem Leaves.enterSyncWait (k : CtxId) (s : State) : Leaves k s (Machine.enterSyncWait asg k s) := by
  unfold Machine.enterSyncWait
  dsimp only
  split
  · refine Stays.leaves (.trans (.updContext s k fun c =>
      { c with phase := .syncWait, routeDevice := c.target.bind (s.routeDeviceFor c.set) }) ?_) k
    exact .trans (.updContext _ k fun c => { c with claim := .waiting }) (.light rfl)
  · exact (Stays.updContext s k _).then (.returnToSelect hA k _ _ _)

omit hA in
theorem Stays.openOld (s : State) (k : CtxId) : Stays s (s.openOld k) := by
  unfold State.openOld
  split
  · split
    · exact .command s _ _ _
    · exact .refl s
  · exact .refl s

theorem Leaves.enterOpeningOld (k : CtxId) (s : State) : Leaves k s (Machine.enterOpeningOld asg k s) := by
  unfold Machine.enterOpeningOld
  dsimp only
  have opens := (Stays.updContext s k fun c => { c with phase := .openingOld }).trans (.openOld _ k)
  split
  · exact (opens.trans (.updContext _ k _)).then (.enterRestoring hA k _)
  · exact (opens.trans (.startTimer _ k _ _)).leaves k

theorem Leaves.oldOpened (k : CtxId) (s : State) : Leaves k s (Machine.oldOpened asg k s) := by
  unfold Machine.oldOpened
  split
  · exact .enterSelect hA k s
  · exact (Stays.updContext s k _).then (.enterRestoring hA k _)

/-! ## Notices of a position word (R48, R149) -/

theorem Leaves.onCompleted (k : CtxId) (d : DevId) (code : Cmd) (s : State) :
    Leaves k s (Machine.onCompleted asg k d code s) := by
  unfold Machine.onCompleted
  dsimp only
  split
  · exact .refl k s
  · split
    · exact .oldOpened hA k s
    · split
      · split
        · exact .settleOpen hA k d false s
        · exact .refl k s
      · split
        · exact .enterRestoring hA k s
        · exact .refl k s
      · split
        · exact .settleFeeder hA k s
        · exact .refl k s
      · split
        · exact .enterOpeningOld hA k s
        · exact .refl k s
      · exact .refl k s

theorem Leaves.onPosition (k : CtxId) (d : DevId) (was : Position) (wasClosed rose : Bool) (s : State) :
    Leaves k s (Machine.onPosition asg k d was wasClosed rose s) := by
  unfold Machine.onPosition
  dsimp only
  split
  · exact .refl k s
  · split
    · exact .endContext hA k _ _ s
    · split
      · exact .oldOpened hA k s
      · split
        · split
          · exact .returnToSelect hA k _ _ s
          · exact .returnToSelect hA k _ _ s
          · split
            · exact .refl k s
            · exact .returnToSelect hA k _ _ s
          · exact .refl k s
        · exact .refl k s

theorem Leaves.onTrip (d : DevId) (unfed : FourSet) (s : State) (k : CtxId) :
    Leaves k s (Machine.onTrip asg d unfed s k) := by
  unfold Machine.onTrip
  dsimp only
  split
  · exact .refl k s
  · split
    · exact .endContext hA k _ _ s
    · split
      · exact .endContext hA k _ _ s
      · split
        · exact .returnToSelect hA k _ _ s
        · split
          · split
            · exact .returnToSelect hA k _ _ s
            · exact .refl k s
          · split
            · exact .returnToSelect hA k _ _ s
            · exact .refl k s
          · split
            · exact .returnToSelect hA k _ _ s
            · exact .refl k s
          · exact .refl k s

/-! ## Taking a request (R101, R102, R109) -/

theorem startContext_standing (k : CtxId) (e : Request) (set : FourSet) (s : State) :
    (Machine.startContext asg k e set s).standing = s.standing := by
  unfold Machine.startContext
  dsimp only
  have captures : ∀ s d, (State.capture k s d).standing = s.standing := fun s d => by
    unfold State.capture
    dsimp only
    split
    · exact ((Stays.setOwner s d _).trans (.dropInjections _ _)).standing
    · rfl
  have start := fold_standing captures allDevices (s.setContext k (s.startRecord e set))
  split
  · exact (Leaves.enterSelect hA k _).standing.trans start
  · exact (Leaves.enterSyncWait hA k _).standing.trans start

theorem take_standing (k : CtxId) (e : Request) (set : FourSet) (s : State) :
    (s.take asg k e set).standing = s.standing := by
  unfold State.take
  refine (startContext_standing hA k e set _).trans ?_
  rw [(Stays.setSectionStates _ _ _).standing, (Stays.setSectionStates _ _ _).standing]
  exact (Stays.setQueue s _).standing

theorem failTaking_standing (e : Request) (t : Taking) (s : State) : (s.failTaking asg e t).standing = s.standing := by
  unfold State.failTaking
  dsimp only
  split
  · exact (Stays.withdrawHeld e s).standing
  · exact (Stays.withdrawArmed hA e s).standing
  · split
    · exact (Stays.withdrawArmed hA e _).standing.trans (raise_standing s _)
    · exact (Stays.withdrawArmed hA e s).standing
  · rfl

end

theorem takingOpen_of_waits {s : State} (waits : s.store.pendingCopy.isSome = true) : s.takingOpen = false := by
  unfold State.takingOpen
  cases copy : s.store.pendingCopy with
  | none => rw [copy] at waits; cases waits
  | some m => rfl

/-- While taking is closed, context assignment does nothing (R101). -/
theorem assignN_closed {s : State} (closed : s.takingOpen = false) (n : Nat) : assignN n s = s := by
  cases n with
  | zero => rfl
  | succ n =>
    unfold assignN
    split
    · rfl
    · rw [closed]

theorem Stays.assignN (n : Nat) (s : State) : Stays s (Machine.assignN n s) := by
  have closed : s.fresh → Machine.assignN n s = s := fun x => assignN_closed (takingOpen_of_waits x.waits) n
  refine ⟨?_, fun x => by rw [closed x]; exact x, fun x k => by rw [closed x]; exact id⟩
  clear closed
  induction n generalizing s with
  | zero => rfl
  | succ n ih =>
    have hA : ∀ s, Stays s (Machine.assignN n s) := fun s =>
      have closed : s.fresh → Machine.assignN n s = s := fun x => assignN_closed (takingOpen_of_waits x.waits) n
      ⟨ih s, fun x => by rw [closed x]; exact x, fun x k => by rw [closed x]; exact id⟩
    unfold Machine.assignN
    split
    · rfl
    · split
      · split
        · exact (ih _).trans (take_standing hA _ _ _ s)
        · exact (ih _).trans (failTaking_standing hA _ _ s)
      · rfl

/-- Context assignment (R101). -/
theorem Stays.assign (s : State) : Stays s (Machine.assign s) := .assignN _ s

/-! ## The end of the event -/

theorem watchDead_standing (s : State) (k : CtxId) : (s.watchDead k).standing = s.standing := by
  unfold State.watchDead
  dsimp only
  split
  · split
    · split <;> rfl
    · rfl
  · rfl

/-- With no copy waiting, what the freeing of contexts allows is assignment alone. -/
theorem settleFreed_standing {s : State} (no_copy : s.store.pendingCopy = none) (n : Nat) :
    (settleFreed n s).standing = s.standing := by
  induction n generalizing s with
  | zero => rfl
  | succ n ih =>
    unfold settleFreed
    split
    · rfl
    · have same : ({ s with freed := Three.fill false }).afterFreeing.standing = s.standing := by
        unfold State.afterFreeing State.applyIfFree
        dsimp only
        rw [no_copy]
        exact (Stays.assign _).standing
      have store : ({ s with freed := Three.fill false }).afterFreeing.store = s.store := congrArg Prod.fst same
      exact (ih (by rw [store]; exact no_copy)).trans same

/-- The end of an event keeps the standing board: no copy is applied, either because none waits or because no frame of the
event has freed a context. -/
theorem finish_standing {s : State} (before : State) (kept : s.store.pendingCopy = none ∨ s.settled) :
    (s.finish before).standing = s.standing := by
  have settle : (settleFreed Config.freeingRounds s).standing = s.standing := by
    rcases kept with no_copy | settled
    · exact settleFreed_standing no_copy _
    · rw [settleFreed_settled _ _ settled]
  unfold State.finish State.markChanged
  rw [(Stays.markAll _ _).standing, fold_standing watchDead_standing]
  exact settle

/-- A reaction of one context, to the end of its event. -/
theorem Leaves.finish_standing {k : CtxId} {s u : State} (before : State) (h : Leaves k s u) (settled : s.settled)
    (noDeferred : s.noDeferred) (noMarks : s.noMarks) : (u.finish before).standing = s.standing := by
  have store : u.store = s.store := congrArg Prod.fst h.standing
  refine (Machine.finish_standing before ?_).trans h.standing
  cases copy : s.store.pendingCopy with
  | none => exact .inl (by rw [store]; exact copy)
  | some m => exact .inr (h.resting ⟨settled, by rw [copy]; rfl, noDeferred, noMarks⟩).1

/-- A second reaction of the same context: one that has ended does nothing. -/
theorem Leaves.andThen {k : CtxId} {s t u : State} (h : Leaves k s t) (g : Leaves k t u)
    (ended : t.active k = false → u = t) : Leaves k s u := by
  refine ⟨g.standing.trans h.standing, fun x => ?_⟩
  obtain ⟨settled, waits, noDeferred, noMarks | idle⟩ := h.resting x
  · exact g.resting ⟨settled, waits, noDeferred, noMarks⟩
  · rw [ended idle]
    exact ⟨settled, waits, noDeferred, .inr idle⟩

/-! ## What follows from a standing board -/

section
variable {s u : State} (h : u.standing = s.standing)
include h

theorem store_of_standing : u.store = s.store := congrArg Prod.fst h

theorem latch_of_standing : u.latch = s.latch := congrArg (fun x => x.2.1) h

theorem device_of_standing (d : DevId) : (u.device d).standing = (s.device d).standing :=
  congrFun (congrArg (fun x => x.2.2.1) h) d

theorem source_of_standing (n : SrcId) : (u.source n).standing = (s.source n).standing :=
  congrFun (congrArg (fun x => x.2.2.2) h) n

theorem state_of_standing (n : SrcId) : (u.source n).state = (s.source n).state := by
  have same := congrArg Source.state (source_of_standing h n)
  exact same

theorem observed_of_standing (d : DevId) : (u.device d).observed = (s.device d).observed := by
  have same := congrArg Device.observed (device_of_standing h d)
  exact same

theorem trip_of_standing (d : DevId) : (u.device d).trip = (s.device d).trip := by
  have same := congrArg Device.trip (device_of_standing h d)
  exact same

theorem countedClosed_of_standing : u.countedClosed = s.countedClosed := by
  funext d
  have op := congrArg Device.op (device_of_standing h d)
  exact countedClosed_congr (store_of_standing h) (observed_of_standing h d) op

end

end Sys2Proof.Machine
end

section
/-! PROOFS. The settling of OPENING (R116): the statement fails, because its second clause allows a state in which the
context is ACTIVE while a slot is marked with it (R173). -/

namespace Sys2Proof.Machine

/-- Two incomers on B0: that of S0 at 8000h and 8001h, that of S1 at 8010h and 8011h. -/
def twoIncomers : Board :=
  { Board.empty with
    devices := (Board.empty.devices.set 0
      { DeviceEntry.blank with kind := .incomer 0 0, command := 0x8000, position := 0x8001 }).set 1
      { DeviceEntry.blank with kind := .incomer 0 1, command := 0x8010, position := 0x8011 } }

/-- X0 in OPENING on B0, the OPEN of D0 in progress and nothing else to open. -/
def openingB0 : Context :=
  { Context.blank with
    state := .active, phase := .opening, set := singleSection 0, opening := DevSet.none.set 0 true,
    sent := DevSet.none.set 0 true }

/-- The scanner reports D0 OPEN to X0 in OPENING. The next frame's slot is marked with X0, D0 has a malformed word
deferred, and an empty copy waits. -/
def markedOpening : State :=
  { State.reset with
    fPort := { access := some ⟨.write, 0x8001, 8⟩, data := 0 }, lastGranted := .p, dirty := [],
    devices := (Sixteen.fill Device.blank).set 0
      { Device.blank with owner := .context 0, op := .inProgress .opn 9, deferred := some 0 },
    store := { State.reset.store with working := some twoIncomers, pendingCopy := some [] },
    contexts := (Three.fill Context.blank).set 0 openingB0,
    recorder := { State.reset.recorder with marks := (Three.fill none).set 0 (some 0) } }

theorem markedOpening_reports :
    markedOpening.reports (markedOpening.granted .f) ⟨.write, 0x8001, 8⟩ 0 .opened ∧
      (markedOpening.granted .f).steady ∧ (markedOpening.granted .f).context 0 = openingB0 := by
  and_intros <;> decide +kernel

/-- The context ends DEVICE_FAILED, D1 being closed. The re-check of the deferred word raises a frame in the marked slot,
which frees the context; the copy is then applied, and on the empty board the set is dead. -/
theorem markedOpening_frees :
    ((stateOf markedOpening (exec .positionWord markedOpening)).dead openingB0.set = true) ∧
      ((stateOf markedOpening (exec .positionWord markedOpening)).context 0).state = .free := by
  and_intros <;> decide +kernel

/-- Refutes O49: the context that the second clause finds in DEAD_WAIT is FREE, and the board on which its set is dead is
the one that the event itself has applied. The clause does not ask, as its other parts do, that no slot be marked. -/
theorem not_openingSettles : ¬ Obligations.OpeningSettles := by
  intro claim
  obtain ⟨completes, _⟩ := claim
  obtain ⟨reports, steady, context⟩ := markedOpening_reports
  obtain ⟨_, last⟩ := completes markedOpening _ ⟨.write, 0x8001, 8⟩ 0 0 9 openingB0 reports (by decide +kernel)
    (by decide +kernel) (by decide +kernel) context rfl rfl rfl (by decide +kernel) steady
  obtain ⟨u, run, dead, _⟩ := last (by decide) (by decide)
  obtain ⟨isDead, free⟩ := markedOpening_frees
  rw [run, stateOf_next] at isDead free
  rw [dead rfl isDead] at free
  exact ContextState.noConfusion free

end Sys2Proof.Machine
end

section
/-! PROOFS. An evaluation while no request is taken changes sections and the queue only (R96 to R99, R101). -/

namespace Sys2Proof.Machine

/-- The state but for the sections, the queue and the dirty set. -/
def State.besideQueue (s : State) : State := { s with sections := Four.fill Section.reset, queue := [], dirty := [] }

/-- What queuing, withdrawing and holding do. -/
def Queues (s u : State) : Prop := u.besideQueue = s.besideQueue

theorem Queues.refl (s : State) : Queues s s := rfl

theorem Queues.trans {s t u : State} (h : Queues s t) (g : Queues t u) : Queues s u := Eq.trans g h

theorem Queues.eq {s u : State} (h : Queues s u) :
    u = { s with sections := u.sections, queue := u.queue, dirty := u.dirty } := by
  unfold Queues State.besideQueue at h
  cases s
  cases u
  simp only [State.mk.injEq] at h ⊢
  simp only [h, and_self]

theorem Queues.closed {s u : State} (h : Queues s u) (closed : s.takingClosed) : u.takingClosed := by
  rw [h.eq]
  exact closed

theorem Queues.foldl {α : Type} {f : State → α → State} (h : ∀ s x, s.takingClosed → Queues s (f s x)) (xs : List α)
    {s : State} (closed : s.takingClosed) : Queues s (xs.foldl f s) := by
  induction xs generalizing s with
  | nil => exact .refl s
  | cons x xs ih => exact (h s x closed).trans (ih ((h s x closed).closed closed))

theorem Queues.markAll (s : State) (offs : List Nat) : Queues s (s.markAll offs) := by
  rw [markAll_eq]
  rfl

theorem Queues.setQueue (s : State) (q : List Request) : Queues s (s.setQueue q) :=
  Queues.trans (t := { s with queue := q }) rfl (Queues.markAll _ _)

theorem Queues.setSectionState (s : State) (b : SecId) (st : SectionState) : Queues s (s.setSectionState b st) := by
  unfold State.setSectionState
  split
  · exact .refl s
  · rfl

theorem Queues.setSectionStates (s : State) (bs : List SecId) (st : SectionState) :
    Queues s (s.setSectionStates bs st) := by
  unfold State.setSectionStates
  induction bs generalizing s with
  | nil => exact .refl s
  | cons b bs ih => exact (Queues.setSectionState s b st).trans (ih _)

section
variable {asg : State → State} (hA : ∀ s, s.takingClosed → Queues s (asg s))
include hA

theorem Queues.placeSupply (ev : List SecId → State → State) (hev : ∀ bs s, s.takingClosed → Queues s (ev bs s))
    (e : Request) {s : State} (closed : s.takingClosed) : Queues s (s.placeSupply asg ev e) := by
  have joined : Queues s (((s.setQueue (joinSupply e s.queue)).queueSections e).setSectionStates (leftOut e s.queue) .armed) :=
    ((Queues.setQueue s _).trans (.setSectionStates _ _ _)).trans (.setSectionStates _ _ _)
  have evaluated := joined.trans (hev (leftOut e s.queue) _ (joined.closed closed))
  exact evaluated.trans (hA _ (evaluated.closed closed))

theorem Queues.placeReturn (e : Request) {s : State} (closed : s.takingClosed) : Queues s (s.placeReturn asg e) := by
  unfold State.placeReturn
  split
  · exact .refl s
  · have joined : Queues s ((s.setQueue (s.queue ++ [e])).queueSections e) :=
      (Queues.setQueue s _).trans (.setSectionStates _ _ _)
    exact joined.trans (hA _ (joined.closed closed))

theorem Queues.evaluateReturn (b : SecId) (cause : Option Slot) {s : State} (closed : s.takingClosed) :
    Queues s (s.evaluateReturn asg b cause) := by
  have one : ∀ f s x, s.takingClosed → Queues s (State.evaluateReturnSet asg f cause s x) := fun f s x closed => by
    unfold State.evaluateReturnSet
    dsimp only
    split
    · split
      · exact .placeReturn hA _ closed
      · exact .refl s
    · exact .refl s
  unfold State.evaluateReturn
  dsimp only
  split
  · split
    · exact .foldl (one _) _ closed
    · exact .refl s
  · exact .refl s

theorem Queues.evaluateN (n : Nat) (cause : Option Slot) (bs : List SecId) {s : State} (closed : s.takingClosed) :
    Queues s (Machine.evaluateN asg n cause bs s) := by
  induction n generalizing cause bs s with
  | zero => exact .refl s
  | succ n ih =>
    unfold Machine.evaluateN
    refine .foldl (fun s b closed => ?_) _ closed
    dsimp only
    split
    · split
      · exact .refl s
      · split
        · exact .placeSupply hA _ (fun bs s closed => ih none bs closed) _ closed
        · exact .setSectionStates s _ _
    · exact .evaluateReturn hA b cause closed

theorem Queues.evaluate (cause : Option Slot) (bs : List SecId) {s : State} (closed : s.takingClosed) :
    Queues s (s.evaluate asg cause bs) :=
  .evaluateN hA 5 cause bs closed

end

/-- The evaluation of an event, no request being taken. -/
theorem Queues.evaluate_assign (cause : Option Slot) (bs : List SecId) {s : State} (closed : s.takingClosed) :
    Queues s (s.evaluate assign cause bs) :=
  .evaluate (fun s closed => by rw [Machine.assign_closed closed]; exact .refl s) cause bs closed

/-- An evaluation that ends an event keeps the standing board. -/
theorem next_evaluate_standing {s : State} (before : State) (cause : Option Slot) (bs : List SecId) (settled : s.settled) :
    ((s.evaluate assign cause bs).finish before).standing = s.standing := by
  have stays := Stays.evaluate Stays.assign cause bs s
  refine (finish_standing before ?_).trans stays.standing
  cases copy : s.store.pendingCopy with
  | none => exact .inl (by rw [store_of_standing stays.standing]; exact copy)
  | some m =>
    have closed : s.takingClosed := .inl (takingOpen_of_waits (by rw [copy]; rfl))
    refine .inr ?_
    rw [(Queues.evaluate_assign cause bs closed).eq]
    exact settled

end Sys2Proof.Machine
end

section
/-! PROOFS. Protection trips (R46, R104): the frame, the lockout of what a trip leaves UNFED, and the SUPPLY that a trip
queues under TREAT_AS_LOSS. -/

namespace Sys2Proof.Machine

/-! ## A rise of the tripped indication (R46) -/

/-- The trip as the Section Controller takes it: an INCOMER or a TIE is handled, a FEEDER is not (R46, R104). -/
def State.handleTrip (s : State) (d : DevId) (slot : Slot) : State :=
  if (s.kindOf d).tripsBoard then s.dispatchTrip d slot else s

theorem takePosition_rise {s : State} {d : DevId} {w : Word} (high : w.getLsbD 2 = true)
    (low : (s.device d).tripped = false) :
    s.takePosition d w = s.tellCompleted d w
      ((((s.reported d ((s.device d).report w)).raise
          ((s.reported d ((s.device d).report w)).deviceIncident .protectionTrip d)).handleTrip d s.recorder.index).tell
        (s.ownerContext d) fun k => onPosition assign k d (s.device d).observed (s.countedClosed d) true) := by
  have tripped : ((s.device d).report w).tripped = true := high
  have changed : (s.device d).report w ≠ s.device d := fun same => by
    rw [same, low] at tripped
    cases tripped
  have rises : (((s.device d).report w).tripped && !(s.device d).tripped) = true := by
    rw [tripped, low]
    rfl
  obtain ⟨S, R, D, _, _, _, shape⟩ := reported_shape s d ((s.device d).report w)
  have kind : ((s.reported d ((s.device d).report w)).raise
      ((s.reported d ((s.device d).report w)).deviceIncident .protectionTrip d)).kindOf d = s.kindOf d := by
    refine kindOf_congr ?_ d
    rw [store_of_standing (raise_standing _ _), shape]
  unfold State.takePosition
  dsimp only
  rw [if_neg changed, rises]
  unfold State.tellCompleted State.handleTrip
  rw [kind]
  rfl

/-- A word that raises the tripped indication, up to the notices of its position. The state v has the record of the device,
and the frame. -/
theorem exec_positionWord_trips {s t : State} {a : Access} {d : DevId} (granted : s.grantsWrite .f a)
    (ht : s.granted .f = t) (hclass : t.classify a.addr = .position d) (high : a.data.getLsbD 2 = true)
    (low : (t.device d).tripped = false) (unmarked : t.slotUnmarked) :
    ∃ S R D v, (∀ off ∈ t.dirty ++ t.frameMarks, off ∈ D) ∧
      (∀ b, S.get b = t.sectionReported d ((t.device d).report a.data) b) ∧
      (∀ n, R.get n = t.sourceReported d ((t.device d).report a.data) n) ∧
      v = { t with
        image := t.image.write a.addr.toNat a.data, devices := t.devices.set d ((t.device d).report a.data),
        sections := S, sources := R, recorder := t.recorded (t.deviceIncident .protectionTrip d), dirty := D } ∧
      exec .positionWord s = .next
        ((t.tellCompleted d a.data ((v.handleTrip d t.recorder.index).tell (t.ownerContext d) fun k =>
          onPosition assign k d (t.device d).observed (t.countedClosed d) true)).finish t) := by
  obtain ⟨S, R, D, marked, sections, sources, reported⟩ :=
    reported_shape (t.storeWord a.addr a.data) d ((t.device d).report a.data)
  obtain ⟨w, hw⟩ : ∃ w, w = (t.storeWord a.addr a.data).reported d ((t.device d).report a.data) := ⟨_, rfl⟩
  have shape := hw.trans reported
  have incident : w.deviceIncident .protectionTrip d = t.deviceIncident .protectionTrip d := by
    have owner : w.ownerContext d = t.ownerContext d := by
      unfold State.ownerContext State.device
      rw [shape]
      dsimp only
      rw [Sixteen.get_set_same]
      rfl
    unfold State.deviceIncident
    rw [owner, shape]
    rfl
  have raised := raise_recorded w (t.deviceIncident .protectionTrip d) (by rw [shape]; exact unmarked)
  refine ⟨S, R, markList w.frameMarks w.dirty, _, fun off mem => ?_, sections, sources, rfl, ?_⟩
  · refine (mem_markList _ _ _).2 ?_
    rw [shape]
    exact (List.mem_append.1 mem).imp (marked off) id
  · rw [exec_positionWord_granted granted ht hclass, takePosition_rise (s := t.storeWord a.addr a.data) high low]
    rw [show (t.storeWord a.addr a.data).reported d (((t.storeWord a.addr a.data).device d).report a.data) = w from hw.symm,
      incident, raised, shape]
    rfl

theorem tellCompleted_free {s : State} {d : DevId} (w : Word) (u : State) (free : s.ownedByNoContext d) :
    s.tellCompleted d w u = u := by
  unfold State.tellCompleted
  rw [show s.ownerContext d = none from free]
  split <;> rfl

theorem tell_free {s : State} {d : DevId} (u : State) (f : CtxId → State → State) (free : s.ownedByNoContext d) :
    u.tell (s.ownerContext d) f = u := by
  rw [show s.ownerContext d = none from free]
  rfl

/-- The record that a first report of a trip in the same position leaves, no operation in progress. -/
theorem report_trip {x : Device} {w : Word} (high : w.getLsbD 2 = true) (low : x.tripped = false)
    (position : positionOf w = x.observed) (idle : x.op = .idle) :
    x.report w = { x with tripped := true, available := w.getLsbD 3, trip := true } := by
  have completes : x.completes (positionOf w) = none := completes_eq_none fun c e op => by
    rw [idle] at op
    cases op
  unfold Device.report
  rw [completes, position, show flag w 2 = true from high, low]
  simp [flag]

/-! ## Lockout (R104) -/

/-- A section that a trip has left UNFED, no request waiting: a TRANSFERRING one keeps its state. -/
def Section.lockedOut (x : Section) : Section :=
  match x.state with
  | .transferring => x
  | _ => { x with state := .lockout }

theorem lockOut_shape {s : State} (unfed : FourSet) (b : SecId) (empty : s.queue = []) :
    ∃ D, (∀ off ∈ s.dirty, off ∈ D) ∧
      State.lockOut unfed s b = { s with sections := s.sections.set b (s.section b).lockedOut, dirty := D } := by
  have locks : (s.section b).state ≠ .transferring → State.lockOut unfed s b = s.setSectionState b .lockout := fun free => by
    have nobody : s.requestOf b = none := by
      unfold State.requestOf
      rw [empty]
      rfl
    unfold State.lockOut
    rw [nobody]
    cases state : (s.section b).state with
    | transferring => exact absurd state free
    | _ => rfl
  have keeps : (s.section b).state ≠ .transferring → (s.section b).lockedOut = { s.section b with state := .lockout } :=
    fun free => by
      unfold Section.lockedOut
      cases state : (s.section b).state with
      | transferring => exact absurd state free
      | _ => rfl
  by_cases free : (s.section b).state = .transferring
  · refine ⟨s.dirty, fun _ mem => mem, ?_⟩
    unfold State.lockOut Section.lockedOut
    rw [free]
    show s = { s with sections := s.sections.set b (s.sections.get b) }
    rw [Four.set_get]
  · rw [locks free, keeps free]
    exact setSectionState_shape s b .lockout

theorem foldl_lockOut_shape {s : State} (unfed : FourSet) (empty : s.queue = []) :
    ∃ S D, (∀ off ∈ s.dirty, off ∈ D) ∧
      (∀ b, S.get b = if unfed.get b = true then (s.section b).lockedOut else s.section b) ∧
      (FourSet.toList unfed).foldl (State.lockOut unfed) s = { s with sections := S, dirty := D } := by
  obtain ⟨S, D, marked, sections, locked⟩ := foldl_sections_shape (s := s) (f := State.lockOut unfed)
    (g := fun _ => Section.lockedOut)
    (fun S D b => lockOut_shape (s := { s with sections := S, dirty := D }) unfed b empty) (nodup_toList unfed) s.sections
    s.dirty
  refine ⟨S, D, marked, fun b => ?_, locked⟩
  rw [sections]
  simp only [FourSet.mem_toList]
  rfl

/-- The sections that a trip leaves UNFED (R104). -/
theorem mem_tripUnfed (s : State) (d : DevId) (c : SecId) :
    (s.tripUnfed d).get c = true ↔ ∃ b ∈ (s.kindOf d).sections, s.supply b = .unfed ∧ (s.island b).get c = true := by
  unfold State.tripUnfed
  rw [Four.get_ofFn, List.any_eq_true]
  simp only [Bool.and_eq_true, beq_iff_eq]

theorem hearsTrip_idle {s : State} (d : DevId) (unfed : FourSet) (idle : s.noTransfer) (k : CtxId) :
    s.hearsTrip d unfed k = false := by
  unfold State.hearsTrip
  rw [idle k]
  rfl

theorem dispatchTrip_locksOut {s : State} {d : DevId} (slot : Slot) (lockout : s.board.responses.treatAsLoss = false)
    (idle : s.noTransfer) :
    s.dispatchTrip d slot = (FourSet.toList (s.tripUnfed d)).foldl (State.lockOut (s.tripUnfed d)) s := by
  unfold State.dispatchTrip
  dsimp only
  rw [lockout]
  exact tellEach_none _ _ _ (hearsTrip_idle d _ idle)

theorem dispatchTrip_evaluates {s : State} {d : DevId} (slot : Slot) (loss : s.board.responses.treatAsLoss = true)
    (idle : s.noTransfer) :
    s.dispatchTrip d slot = s.evaluate assign (some slot) (FourSet.toList (s.tripUnfed d)) := by
  unfold State.dispatchTrip
  dsimp only
  rw [if_pos loss, tellEach_none _ _ _ (hearsTrip_idle d _ idle)]

/-! ## The lead of an island -/

theorem lowest_mem (x : FourSet) : (∃ b, x.get b = true) → x.get x.lowest = true := by
  obtain ⟨p, q, r, s⟩ := x
  revert p q r s
  decide

theorem island_lowest (s : State) (b : SecId) : s.island (s.island b).lowest = s.island b :=
  island_eq_of_mem (lowest_mem _ ⟨b, mem_island_self s b⟩)

theorem lowest_lead (s : State) (b : SecId) : (s.island b).lowest ∈ s.islandLeads := by
  rw [mem_islandLeads, island_lowest]

/-- The islands that hold a section of an island are that island. -/
theorem leadsOf_island (s : State) (b : SecId) :
    s.leadsOf (FourSet.toList (s.island b)) = s.leadsOf [(s.island b).lowest] := by
  unfold State.leadsOf
  refine List.filter_congr fun l _ => Bool.eq_iff_iff.2 ?_
  simp only [List.any_eq_true, FourSet.mem_toList, List.mem_singleton, exists_eq_left]
  refine ⟨fun ⟨c, inside, holds⟩ => ?_, fun holds => ⟨_, lowest_mem _ ⟨b, mem_island_self s b⟩, holds⟩⟩
  have same : s.island l = s.island b := (island_eq_of_mem holds).symm.trans (island_eq_of_mem inside)
  rw [same]
  exact lowest_mem _ ⟨b, mem_island_self s b⟩

theorem evaluate_island (asg : State → State) (cause : Option Slot) (s : State) (b : SecId) :
    s.evaluate asg cause (FourSet.toList (s.island b)) = s.evaluate asg cause [(s.island b).lowest] := by
  unfold State.evaluate
  show evaluateN asg (4 + 1) cause _ s = evaluateN asg (4 + 1) cause _ s
  unfold evaluateN
  rw [leadsOf_island]

theorem tripUnfed_incomer {s : State} {d : DevId} {b : SecId} {n : SrcId} (kind : s.kindOf d = .incomer b n)
    (unfed : s.supply b = .unfed) : s.tripUnfed d = s.island b := by
  refine Four.ext_get fun c => Bool.eq_iff_iff.2 ?_
  rw [mem_tripUnfed, kind]
  show (∃ x ∈ [b], _) ↔ _
  simp [unfed]

end Sys2Proof.Machine
end

section
/-! PROOFS. The trip of a device that no context owns (R46, R104). -/

namespace Sys2Proof.Machine

theorem deviceIncident_free {s : State} {d : DevId} (cls : IncidentClass) (free : s.ownedByNoContext d) :
    s.deviceIncident cls d =
      { cls := cls, sec := s.frameSection d, dev := some d, src := s.incomerSource d } := by
  unfold State.deviceIncident
  rw [show s.ownerContext d = none from free]
  rfl

/-- The trip of a FEEDER that no context owns, reported in the position it had. -/
theorem exec_positionWord_feederTrip {s t : State} {a : Access} {d : DevId} {b : SecId} (granted : s.grantsWrite .f a)
    (ht : s.granted .f = t) (hclass : t.classify a.addr = .position d) (kind : t.kindOf d = .feeder b)
    (high : a.data.getLsbD 2 = true) (low : (t.device d).tripped = false)
    (position : positionOf a.data = (t.device d).observed) (idle : (t.device d).op = .idle)
    (free : t.ownedByNoContext d) (steady : t.steady) (unmarked : t.slotUnmarked) :
    ∃ D, (∀ off ∈ t.dirty ++ t.frameMarks, off ∈ D) ∧ exec .positionWord s = .next
      { t with
        image := t.image.write a.addr.toNat a.data,
        devices := t.devices.set d { t.device d with tripped := true, available := a.data.getLsbD 3, trip := true },
        recorder := t.recorded { cls := .protectionTrip, sec := some b, dev := some d },
        dirty := D } := by
  obtain ⟨S, R, D₁, v, marked₁, sections, sources, hv, row⟩ := exec_positionWord_trips granted ht hclass high low unmarked
  have same : (t.device d).observed = ((t.device d).report a.data).observed := position.symm
  have unchanged : S = t.sections := Four.ext_get fun c => by
    rw [sections, State.sectionReported, if_pos same]
    rfl
  have undemanded : R = t.sources := Four.ext_get fun n => by
    rw [sources, State.sourceReported, if_pos same]
    rfl
  have unhandled : v.handleTrip d t.recorder.index = v := by
    unfold State.handleTrip
    rw [show v.kindOf d = .feeder b by rw [hv]; exact kind]
    rfl
  have incident : t.deviceIncident .protectionTrip d = { cls := .protectionTrip, sec := some b, dev := some d } := by
    rw [deviceIncident_free _ free]
    unfold State.frameSection State.incomerSource
    rw [kind]
    rfl
  rw [unhandled, tell_free v _ free, tellCompleted_free _ v free] at row
  rw [report_trip high low position idle, unchanged, undemanded, incident] at hv
  obtain ⟨D, marked, ended⟩ := next_finish (t := t) (u := v) (marks := t.dirty ++ t.frameMarks) steady
    (by rw [hv]; exact marked₁) (by rw [hv]) (by rw [hv])
  exact ⟨D, marked, by rw [row, ended, hv]⟩

theorem tripsBoard_of_kind {s : State} {d : DevId} (kind : (∃ b n, s.kindOf d = .incomer b n) ∨ ∃ x, s.kindOf d = .tie x) :
    (s.kindOf d).tripsBoard = true := by
  rcases kind with ⟨b, n, is⟩ | ⟨x, is⟩
  · rw [is]
    rfl
  · rw [is]
    rfl

theorem report_trips {x : Device} {w : Word} (high : w.getLsbD 2 = true) (low : x.tripped = false) :
    (x.report w).trip = true := by
  unfold Device.report
  rw [show flag w 2 = true from high, low]
  simp

theorem supply_of_standing {s u : State} (standing : u.standing = s.standing) (b : SecId) :
    u.supply b = s.supply b ∧ u.island b = s.island b := by
  have closed : ∀ d, u.countedClosed d = s.countedClosed d := fun d => congrFun (countedClosed_of_standing standing) d
  have island := island_of_closed (store_of_standing standing) closed b
  exact ⟨by rw [State.supply, State.supply, island, supplyOf_of_closed (store_of_standing standing) closed], island⟩

theorem Inside.evaluated {s : State} (before : State) (cause : Option Slot) (bs : List SecId) :
    Inside s ((s.evaluate Machine.assign cause bs).finish before) :=
  (Inside.evaluate Inside.assign cause bs s).trans (.finish _ _)

/-- The trip under LOCKOUT of a device that no context owns, with no transfer and no request (R104). -/
theorem trip_locksOut {t v : State} {d : DevId} (slot : Slot) (steady : t.steady) (contexts : v.contexts = t.contexts)
    (freed : v.freed = t.freed) (empty : v.queue = []) (idle : v.noTransfer)
    (states : ∀ c, (v.section c).state ≠ .transferring) (lockout : v.board.responses.treatAsLoss = false) :
    ∃ u, (v.dispatchTrip d slot).finish t = u ∧ u.devices = v.devices ∧ u.image = v.image ∧ u.recorder = v.recorder ∧
      ∀ c, (u.section c).state =
        if ∃ b ∈ (v.kindOf d).sections, u.supply b = .unfed ∧ (u.island b).get c = true then .lockout
        else (v.section c).state := by
  obtain ⟨S, D₁, _, sections, locked⟩ := foldl_lockOut_shape (s := v) (v.tripUnfed d) empty
  obtain ⟨D, _, ended⟩ := finish_shape (u := { v with sections := S, dirty := D₁ }) t (steady.of contexts freed)
  refine ⟨_, rfl, ?_⟩
  rw [dispatchTrip_locksOut slot lockout idle, locked, ended]
  refine ⟨rfl, rfl, rfl, fun c => ?_⟩
  have unfed : (∃ b ∈ (v.kindOf d).sections, v.supply b = .unfed ∧ (v.island b).get c = true) ↔
      (v.tripUnfed d).get c = true := (mem_tripUnfed v d c).symm
  show (S.get c).state = if ∃ b ∈ (v.kindOf d).sections, v.supply b = .unfed ∧ (v.island b).get c = true then _ else _
  rw [sections, ite_of_iff unfed _ _]
  split
  · unfold Section.lockedOut
    cases state : (v.section c).state with
    | transferring => exact absurd state (states c)
    | _ => rfl
  · rfl

/-- The trip under TREAT_AS_LOSS of an INCOMER that leaves its island UNFED, every section of it ARMED and unlocked, while
no request is taken (R96, R104). -/
theorem trip_queuesASupply {t v : State} {d : DevId} {b : SecId} {n : SrcId} (slot : Slot) (steady : t.steady)
    (contexts : v.contexts = t.contexts) (freed : v.freed = t.freed) (empty : v.queue = []) (idle : v.noTransfer)
    (closed : v.takingClosed) (loss : v.board.responses.treatAsLoss = true) (kind : v.kindOf d = .incomer b n)
    (unfed : v.supply b = .unfed)
    (armed : ∀ c, (v.island b).get c = true → (v.section c).state = .armed ∧ v.isLocked c = false) :
    ∃ u, (v.dispatchTrip d slot).finish t = u ∧ u.recorder = v.recorder ∧
      u.queue = [v.supplyRequest (v.island b).lowest (some slot)] ∧ v.sectionsTo u (v.island b) .queued := by
  have same := island_lowest v b
  have needs : v.needsSupply (v.island (v.island b).lowest) = true := by
    unfold State.needsSupply
    rw [same, setSupply_island, unfed]
  have queues : v.dispatchTrip d slot =
      v.placeSupply assign (evaluateN assign 4 none) (v.supplyRequest (v.island b).lowest (some slot)) := by
    rw [dispatchTrip_evaluates slot loss idle, tripUnfed_incomer kind unfed, evaluate_island]
    exact evaluate_supplies _ (lowest_lead v b) needs (by rw [same]; exact armed)
  obtain ⟨D₁, S, _, sections, placed⟩ := placeSupply_closed (s := v) 4
    (v.supplyRequest (v.island b).lowest (some slot)) empty closed
  obtain ⟨D, _, ended⟩ := finish_shape
    (u := { v with sections := S, queue := [v.supplyRequest (v.island b).lowest (some slot)], dirty := D₁ }) t
    (steady.of contexts freed)
  refine ⟨_, rfl, ?_⟩
  rw [queues, placed, ended]
  refine ⟨rfl, rfl, fun c => ?_⟩
  show (S.get c).state = _
  rw [sections]
  show (if (v.island (v.island b).lowest).get c = true then _ else _ : Section).state = _
  rw [same]
  split <;> rfl

/-- Settles O41: the trip of a device that no context owns. -/
theorem tripIsFramedAndLocksOut : Obligations.TripIsFramedAndLocksOut := by
  refine ⟨fun s t a d b granted ht hclass kind high low position idle free steady unmarked =>
      exec_positionWord_feederTrip granted ht hclass kind high low position idle free steady unmarked,
    fun s t a d granted ht hclass kind high low free idle empty states steady unmarked => ?_⟩
  obtain ⟨S, R, D₁, v, _, sections, _, hv, row⟩ := exec_positionWord_trips granted ht hclass high low unmarked
  have vkind : v.kindOf d = t.kindOf d := by rw [hv]; rfl
  have vdevice : v.device d = (t.device d).report a.data := by
    rw [hv]
    exact Sixteen.get_set_same _ _ _
  have vstates : ∀ c, (v.section c).state = (t.section c).state := fun c => by
    rw [hv]
    show (S.get c).state = _
    rw [sections]
    exact sectionReported_state _ _ _ _
  have vidle : v.noTransfer := by rw [hv]; exact idle
  have handled : v.handleTrip d t.recorder.index = v.dispatchTrip d t.recorder.index := by
    unfold State.handleTrip
    rw [vkind, tripsBoard_of_kind kind]
    rfl
  rw [handled, tell_free _ _ free, tellCompleted_free _ _ free] at row
  have incident := deviceIncident_free .protectionTrip free
  rw [incident] at hv
  have recorder : v.recorder = t.recorded
      { cls := .protectionTrip, sec := t.frameSection d, dev := some d, src := t.incomerSource d } := by rw [hv]
  have response : v.board = t.board := by rw [hv]; rfl
  have vcontexts : v.contexts = t.contexts := by rw [hv]
  have vfreed : v.freed = t.freed := by rw [hv]
  cases loss : v.board.responses.treatAsLoss with
  | false =>
    obtain ⟨u, hu, devices, image, raised, locked⟩ := trip_locksOut (d := d) t.recorder.index steady vcontexts vfreed
      (by rw [hv]; exact empty) vidle (fun c => by rw [vstates]; exact states c) loss
    rw [hu] at row
    have udevice : u.device d = (t.device d).report a.data := by
      rw [State.device, devices]
      exact vdevice
    refine ⟨u, row, ?_, ?_, ?_, fun _ => ⟨raised.trans recorder, fun c => ?_⟩, fun b n is => ?_⟩
    · rw [udevice]
      exact report_trips high low
    · rw [udevice]
      rfl
    · rw [image, hv]
    · rw [locked c, vkind, vstates]
    · rw [← response, loss] at is
      cases is
  | true =>
    have evaluates := dispatchTrip_evaluates (d := d) t.recorder.index loss vidle
    have standing : ((v.dispatchTrip d t.recorder.index).finish t).standing = v.standing := by
      rw [evaluates]
      exact next_evaluate_standing t _ _ (by rw [State.settled, vfreed]; exact steady.1)
    refine ⟨_, row, ?_, ?_, ?_, fun is => ?_, fun b n _ closed is unfed armed => ?_⟩
    · rw [trip_of_standing standing, vdevice]
      exact report_trips high low
    · rw [observed_of_standing standing, vdevice]
      rfl
    · rw [evaluates, (Inside.evaluated t _ _).image, hv]
    · rw [← response, loss] at is
      cases is
    · obtain ⟨supply, island⟩ := supply_of_standing standing b
      rw [supply] at unfed
      rw [island] at armed ⊢
      obtain ⟨u, hu, raised, queue, queued⟩ := trip_queuesASupply (n := n) t.recorder.index steady vcontexts vfreed
        (by rw [hv]; exact empty) vidle (by rw [hv]; exact closed) loss (vkind.trans is) unfed fun c mem => by
          rw [vstates, hv]
          exact armed c mem
      rw [hu]
      refine ⟨?_, ?_, fun c => ?_⟩
      · rw [raised, recorder]
        unfold State.frameSection State.incomerSource
        rw [is]
        rfl
      · rw [queue]
        unfold State.supplyRequest
        rw [island_lowest]
      · rw [queued c, vstates]

end Sys2Proof.Machine
end

section
/-! PROOFS. What ends a transfer whatever it does (R150, R152 to R154): each notice ends the context, and what its event
tells afterwards finds it ended. -/

namespace Sys2Proof.Machine

/-! ## A context that has ended hears nothing (R142) -/

theorem onCompleted_ended {s : State} {k : CtxId} (asg : State → State) (d : DevId) (code : Cmd)
    (ended : s.active k = false) : onCompleted asg k d code s = s := by
  unfold onCompleted
  rw [ended]
  rfl

theorem onPosition_ended {s : State} {k : CtxId} (asg : State → State) (d : DevId) (was : Position) (wasClosed rose : Bool)
    (ended : s.active k = false) : onPosition asg k d was wasClosed rose s = s := by
  unfold onPosition
  rw [ended]
  rfl

theorem Ended.inactive {s u : State} {k : CtxId} {r : Result} {named : FourSet} (h : Ended s u k r named) :
    u.active k = false := by
  unfold State.active
  rw [h.own]
  rfl

theorem tellIfObserved_ended {s : State} {k : CtxId} (d : DevId) (code : Cmd) (ended : s.active k = false) :
    s.tellIfObserved (some k) d code = s := by
  unfold State.tellIfObserved
  split
  · exact onCompleted_ended assign d code ended
  · rfl

/-! ## The notices (R152 to R154) -/

theorem onPosition_islandSplit {s : State} {k : CtxId} {d : DevId} (asg : State → State) (was : Position)
    (active : s.active k = true) (inside : s.tieInside d (s.context k).set = true)
    (opened : (s.device d).observed = .opened) :
    onPosition asg k d was true false s = endContext asg k .islandSplit FourSet.none s := by
  unfold onPosition
  dsimp only
  rw [active, inside, opened]
  rfl

theorem onLock_active {s : State} {k : CtxId} (asg : State → State) (active : s.active k = true) :
    onLock asg k s = endContext asg k .locked FourSet.none s := by
  unfold onLock
  exact if_pos active

theorem lockRises_transferring {s : State} {b : SecId} {k : CtxId} (transferring : (s.section b).state = .transferring)
    (holder : s.holder b = some k) : s.lockRises b = onLock assign k (s.turnLock b) := by
  unfold State.lockRises
  dsimp only
  rw [show ((s.turnLock b).section b).state = .transferring from transferring,
    show (s.turnLock b).holder b = some k from holder]

/-- An ending that leaves every section of the set HELD, to the end of its event. -/
theorem next_ends_held {s v : State} (before : State) {k : CtxId} {r : Result} {named : FourSet}
    (held : ∀ b, sectionAfter r (named.get b) = .held)
    (context : v.context k = s.context k) (sections : ∀ b, (v.section b).state = (s.section b).state)
    (recorder : v.recorder = s.recorder) (ms : v.ms = s.ms) (store : v.store = s.store) (noMarks : v.noMarks)
    (noDeferred : v.noDeferred) (steady : v.steadyBut k) :
    Ended v ((endContext assign k r named v).finish before) k r named ∧
      s.ends ((endContext assign k r named v).finish before) k r .held := by
  have ended := next_endContext before assign (k := k) (r := r) (named := named) (room_of_noMarks noMarks _)
    (endsQuietly_of_state fun b armed => by rw [held b] at armed; cases armed) steady
  exact ⟨ended, ends_congr (ended.ends noDeferred held) (by rw [context]) sections recorder ms store⟩

/-- A TIE inside the set reported OPEN (R153). -/
theorem exec_positionWord_splits {s t : State} {a : Access} {d : DevId} {k : CtxId} (reports : s.reports t a d .opened)
    (owner : (t.device d).owner = .context k) (active : t.active k = true)
    (inside : t.tieInside d (t.context k).set = true) (closed : t.countedClosed d = true)
    (moved : (t.device d).observed ≠ .opened) (steady : t.steadyBut k) (noMarks : t.noMarks) (noDeferred : t.noDeferred) :
    ∃ u, exec .positionWord s = .next u ∧ t.ends u k .islandSplit .held ∧
      u.image = t.image.write a.addr.toNat a.data := by
  have position := position_of_reports reports
  have changed : (t.device d).report a.data ≠ t.device d := fun same => moved (by rw [← same]; exact position)
  obtain ⟨v, told, row⟩ := exec_positionWord_told reports changed owner
  have vinside : v.tieInside d (v.context k).set = true := by
    rw [told.context]
    unfold State.tieInside
    rw [kindOf_congr told.store]
    exact inside
  have splits : onPosition assign k d (t.device d).observed (t.countedClosed d) false v =
      endContext assign k .islandSplit FourSet.none v := by
    rw [closed]
    exact onPosition_islandSplit assign _ (by rw [told.active]; exact active) vinside (by
      rw [told.device]
      exact position)
  have inactive : (endContext assign k .islandSplit FourSet.none v).active k = false :=
    (endContext_ended assign (room_of_noMarks (told.noMarks noMarks) _) (endsQuietly_of_state fun _ h => by cases h)).inactive
  have ends : exec .positionWord s = .next ((endContext assign k .islandSplit FourSet.none v).finish t) := by
    rw [row, splits]
    split
    · rw [onCompleted_ended assign _ _ inactive]
    · rfl
  obtain ⟨ended, held⟩ := next_ends_held t (r := .islandSplit) (named := FourSet.none) (fun _ => rfl) (told.context k) told.section_state told.recorder told.ms
    told.store (told.noMarks noMarks) (told.noDeferred noDeferred) (told.steadyBut steady)
  exact ⟨_, ends, held, ended.image.trans told.image⟩

/-- A lock of a section of the set (R154). -/
theorem exec_lockLevelRise_ends {s : State} {b : SecId} {k : CtxId} (change : (s.locks.get b).change = true)
    (level : (s.locks.get b).level = false) (transferring : (s.section b).state = .transferring)
    (holder : s.holder b = some k) (steady : s.steadyBut k) (noMarks : s.noMarks) (noDeferred : s.noDeferred) :
    ∃ u, exec (.lockLevelRise b) s = .next u ∧ u.isLocked b = true ∧ s.ends u k .locked .held ∧ u.image = s.image := by
  obtain ⟨active, _⟩ := active_of_holder holder
  obtain ⟨ended, held⟩ := next_ends_held (s := s) (v := s.turnLock b) s (k := k) (r := .locked) (named := FourSet.none)
    (fun _ => rfl) rfl (fun _ => rfl) rfl rfl rfl noMarks noDeferred steady
  refine ⟨_, (exec_lockLevelRise_due change level).trans ?_, ?_, held, ended.image⟩
  · rw [lockRises_transferring transferring holder, onLock_active assign (s := s.turnLock b) active]
  · unfold State.isLocked
    rw [ended.locks]
    unfold State.turnLock
    rw [Four.get_set_same]
    show (!(s.locks.get b).level) = true
    rw [level]
    rfl

/-- A processor OPEN of the route device once it is to close or has closed (R152). -/
theorem exec_processorOpen_ends {s t : State} {a : Access} {d : DevId} {k : CtxId} (opening : s.processorOpening t a d)
    (owner : (t.device d).owner = .context k) (active : t.active k = true)
    (route : (t.context k).routeDevice = some d) (phase : (t.context k).phase.routeCloses) (steady : t.steady)
    (noMarks : t.noMarks) (noDeferred : t.noDeferred) :
    ∃ u, exec .processorOpen s = .next u ∧ t.ends u k .operatorOpen .held ∧
      u.image = t.image.write a.addr.toNat (commandWord .opn 0 (commandTag a.data)) := by
  obtain ⟨granted, ht, hclass, code, idle⟩ := opening
  obtain ⟨v, D, _, hv, told⟩ := processorOpens_told a idle owner
  have context : v.context k = t.context k := by rw [hv]; rfl
  have marks : v.noMarks := by rw [hv]; exact noMarks
  have row := exec_processorOpen_granted granted ht hclass code
  rw [told, onOperatorOpen_route assign _ (by unfold State.active; rw [context]; exact active)
    (by rw [context]; exact route) (by rw [context]; exact phase), tellIfObserved_ended _ _
    (endContext_ended assign (room_of_noMarks marks _) (endsQuietly_of_state fun _ h => by cases h)).inactive] at row
  have undeferred : v.noDeferred := fun e => by
    rw [hv]
    unfold State.device
    dsimp only
    rw [Sixteen.get_set]
    split
    · rfl
    · exact noDeferred e
  obtain ⟨ended, held⟩ := next_ends_held (s := t) (v := v) t (k := k) (r := .operatorOpen) (named := FourSet.none)
    (fun _ => rfl) context (fun b => by rw [hv]; rfl) (by rw [hv]) (by rw [hv]) (by rw [hv]) marks undeferred
    (by rw [hv]; exact steadyBut_of_steady steady k)
  exact ⟨_, row, held, by rw [ended.image, hv]⟩

end Sys2Proof.Machine
end

section
/-! PROOFS. A trip in a transfer under LOCKOUT (R103, R104, R149, R150). -/

namespace Sys2Proof.Machine

/-- A notice that only context k may be given. -/
theorem tellEach_one (s : State) {who : CtxId → Bool} (f : State → CtxId → State) {k : CtxId}
    (only : ∀ j, j ≠ k → who j = false) : s.tellEach who f = if who k = true then f s k else s := by
  have hears : allContexts.filter who = if who k = true then [k] else [] := by
    match k with
    | 0 =>
      show List.filter who [0, 1, 2] = _
      simp only [List.filter_cons, List.filter_nil, only 1 (by decide), only 2 (by decide)]
      rfl
    | 1 =>
      show List.filter who [0, 1, 2] = _
      simp only [List.filter_cons, List.filter_nil, only 0 (by decide), only 2 (by decide)]
      rfl
    | 2 =>
      show List.filter who [0, 1, 2] = _
      simp only [List.filter_cons, List.filter_nil, only 0 (by decide), only 1 (by decide)]
      rfl
  unfold State.tellEach
  rw [hears]
  split <;> rfl

/-- The sections of the set that a trip names (R149). -/
def State.tripNamed (s : State) (unfed : FourSet) (k : CtxId) : FourSet :=
  Four.ofFn fun b => unfed.get b && (s.context k).set.get b

theorem onTrip_locksOut {s : State} {k : CtxId} (asg : State → State) (d : DevId) {unfed : FourSet}
    (active : s.active k = true) (lockout : s.board.responses.treatAsLoss = false)
    (overlaps : FourSet.overlaps unfed (s.context k).set = true) :
    onTrip asg d unfed s k = endContext asg k .tripped (s.tripNamed unfed k) s := by
  unfold onTrip
  dsimp only
  rw [active, lockout, overlaps]
  rfl

theorem overlaps_iff (x y : FourSet) : x.overlaps y = true ↔ ∃ b, x.get b = true ∧ y.get b = true := by
  have every : ∀ b : SecId, b ∈ allFours := by decide
  unfold FourSet.overlaps
  rw [List.any_eq_true]
  exact ⟨fun ⟨b, _, both⟩ => ⟨b, Bool.and_eq_true_iff.1 both⟩, fun ⟨b, both⟩ => ⟨b, every b, Bool.and_eq_true_iff.2 both⟩⟩

/-- The notices of a position word to the context k, which owns the device or is told nothing: what it does of the
position, then of a completed operation (R48). -/
def State.tellsOwner (t : State) (a : Access) (d : DevId) (u : State) : State :=
  t.tellCompleted d a.data
    (u.tell (t.ownerContext d) fun k => onPosition assign k d (t.device d).observed (t.countedClosed d) true)

theorem tellsOwner_ended {t u : State} {a : Access} {d : DevId} {k : CtxId}
    (owner : (t.device d).owner = .context k ∨ t.ownedByNoContext d) (ended : u.active k = false) :
    t.tellsOwner a d u = u := by
  unfold State.tellsOwner
  rcases owner with owner | free
  · unfold State.tellCompleted
    have position : (u.tell (some k) fun k => onPosition assign k d (t.device d).observed (t.countedClosed d) true) = u :=
      onPosition_ended assign d _ _ true ended
    rw [ownerContext_of_context owner, position]
    split
    · exact onCompleted_ended assign d _ ended
    · rfl
  · rw [tell_free _ _ free, tellCompleted_free _ _ free]

theorem Leaves.tellsOwner {t u : State} {a : Access} {d : DevId} {k : CtxId}
    (owner : (t.device d).owner = .context k ∨ t.ownedByNoContext d) : Leaves k u (t.tellsOwner a d u) := by
  unfold State.tellsOwner
  rcases owner with owner | free
  · unfold State.tellCompleted
    rw [ownerContext_of_context owner]
    have position : Leaves k u
        (u.tell (some k) fun k => Machine.onPosition Machine.assign k d (t.device d).observed (t.countedClosed d) true) :=
      .onPosition Stays.assign k d _ _ true u
    split
    · exact position.andThen (.onCompleted Stays.assign k d _ _) fun ended => onCompleted_ended _ d _ ended
    · exact position
  · rw [tell_free _ _ free, tellCompleted_free _ _ free]
    exact .refl k u

theorem lockedOut_state (x : Section) :
    x.lockedOut.state = if x.state = .transferring then .transferring else .lockout := by
  unfold Section.lockedOut
  cases state : x.state with
  | transferring => exact state
  | _ => rfl

/-- The trip of an INCOMER under LOCKOUT, context k alone in a transfer, and what it tells. -/
theorem exec_positionWord_tripped {s t : State} {a : Access} {d : DevId} {b : SecId} {n : SrcId} {k : CtxId}
    (granted : s.grantsWrite .f a) (ht : s.granted .f = t) (hclass : t.classify a.addr = .position d)
    (kind : t.kindOf d = .incomer b n) (high : a.data.getLsbD 2 = true) (low : (t.device d).tripped = false)
    (lockout : t.board.responses.treatAsLoss = false) (alone : ∀ j, t.active j = true ↔ j = k) (empty : t.queue = [])
    (noMarks : t.noMarks) :
    ∃ S R D w, (∀ c, (S.get c).state =
        if (w.tripUnfed d).get c = true ∧ (t.section c).state ≠ .transferring then .lockout else (t.section c).state) ∧
      w = { t with
        image := t.image.write a.addr.toNat a.data, devices := t.devices.set d ((t.device d).report a.data),
        sections := S, sources := R, recorder := t.recorded (t.deviceIncident .protectionTrip d), dirty := D } ∧
      exec .positionWord s = .next ((t.tellsOwner a d
        (if w.hearsTrip d (w.tripUnfed d) k = true then onTrip assign d (w.tripUnfed d) w k else w)).finish t) := by
  obtain ⟨S₁, R, D₁, v, _, sections, _, hv, row⟩ :=
    exec_positionWord_trips granted ht hclass high low (slotUnmarked_of_noMarks noMarks)
  obtain ⟨S, D, _, locked, folds⟩ := foldl_lockOut_shape (s := v) (v.tripUnfed d) (by rw [hv]; exact empty)
  obtain ⟨w, hw⟩ : ∃ w : State, w = { v with sections := S, dirty := D } := ⟨_, rfl⟩
  have unfed : w.tripUnfed d = v.tripUnfed d := by rw [hw]; rfl
  have hears : ∀ j, w.hearsTrip d (w.tripUnfed d) j = v.hearsTrip d (v.tripUnfed d) j := fun j => by
    rw [unfed, hw]
    rfl
  refine ⟨S, R, D, w, fun c => ?_, by rw [hw, hv], ?_⟩
  · have state : (v.section c).state = (t.section c).state := by
      rw [hv]
      show (S₁.get c).state = _
      rw [sections]
      exact sectionReported_state _ _ _ _
    rw [locked, unfed]
    by_cases inside : (v.tripUnfed d).get c = true
    · rw [if_pos inside, lockedOut_state, state]
      by_cases moving : (t.section c).state = .transferring
      · rw [if_pos moving, if_neg fun both => both.2 moving, moving]
      · rw [if_neg moving, if_pos ⟨inside, moving⟩]
    · rw [if_neg inside, if_neg fun both => inside both.1, state]
  · have handled : v.handleTrip d t.recorder.index =
        w.tellEach (v.hearsTrip d (v.tripUnfed d)) (onTrip assign d (v.tripUnfed d)) := by
      unfold State.handleTrip
      rw [show v.kindOf d = .incomer b n by rw [hv]; exact kind]
      show v.dispatchTrip d t.recorder.index = _
      unfold State.dispatchTrip
      dsimp only
      rw [show v.board.responses.treatAsLoss = false by rw [hv]; exact lockout, folds, ← hw]
      rfl
    have only : ∀ j, j ≠ k → v.hearsTrip d (v.tripUnfed d) j = false := fun j ne => by
      have idle : v.active j = false := by
        rw [hv]
        exact Bool.eq_false_iff.2 fun active => ne ((alone j).1 active)
      unfold State.hearsTrip
      rw [idle]
      rfl
    rw [row, handled, tellEach_one w _ only, hears, unfed]
    rfl

/-- Settles O32: the disturbances that end a transfer. -/
theorem disturbancesEndATransfer : Obligations.DisturbancesEndATransfer := by
  refine ⟨fun s t a d k reports owner active inside closed moved steady noMarks noDeferred =>
      exec_positionWord_splits reports owner active inside closed moved steady noMarks noDeferred,
    fun s b k change level transferring holder steady noMarks noDeferred =>
      exec_lockLevelRise_ends change level transferring holder steady noMarks noDeferred,
    fun s t a d k opening owner active route phase steady noMarks noDeferred =>
      exec_processorOpen_ends opening owner active route phase steady noMarks noDeferred,
    fun s t a d b n k c granted ht hclass kind high low owner lockout alone context empty states steady noMarks
      noDeferred => ?_⟩
  subst context
  obtain ⟨S, R, D, w, locked, hw, row⟩ :=
    exec_positionWord_tripped granted ht hclass kind high low lockout alone empty noMarks
  have marks : w.noMarks := by rw [hw]; exact noMarks
  have undeferred : w.noDeferred := noDeferred_reported noDeferred (by rw [hw])
  have settled : w.settled := by rw [hw]; exact steady.1
  have steady_w : w.steadyBut k := by rw [hw]; exact steady
  have active : w.active k = true := by rw [hw]; exact (alone k).2 rfl
  have wdevice : w.device d = (t.device d).report a.data := by
    rw [hw]
    exact Sixteen.get_set_same _ _ _
  have leaves : Leaves k w (t.tellsOwner a d
      (if w.hearsTrip d (w.tripUnfed d) k = true then onTrip assign d (w.tripUnfed d) w k else w)) := by
    have trip : Leaves k w (if w.hearsTrip d (w.tripUnfed d) k = true then onTrip assign d (w.tripUnfed d) w k else w) := by
      split
      · exact .onTrip Stays.assign d _ w k
      · exact .refl k w
    exact trip.andThen (.tellsOwner owner) fun ended => tellsOwner_ended owner ended
  have standing := leaves.finish_standing t settled undeferred marks
  refine ⟨_, row, ?_, fun supply overlap => ?_⟩
  · rw [trip_of_standing standing, wdevice]
    exact report_trips high low
  obtain ⟨supplies, island⟩ := supply_of_standing standing b
  rw [supplies] at supply
  rw [island] at overlap ⊢
  have unfed : w.tripUnfed d = w.island b := tripUnfed_incomer (n := n) (by rw [hw]; exact kind) supply
  have overlaps : FourSet.overlaps (w.island b) (w.context k).set = true := (overlaps_iff _ _).2 (by rw [hw] at overlap ⊢; exact overlap)
  have heard : w.hearsTrip d (w.tripUnfed d) k = true := by
    unfold State.hearsTrip
    rw [active, unfed, overlaps]
    simp
  obtain ⟨named, hnamed⟩ : ∃ x, x = w.tripNamed (w.island b) k := ⟨_, rfl⟩
  have ends : t.tellsOwner a d
      (if w.hearsTrip d (w.tripUnfed d) k = true then onTrip assign d (w.tripUnfed d) w k else w) =
      endContext assign k .tripped named w := by
    rw [if_pos heard, unfed, onTrip_locksOut assign d active (by rw [hw]; exact lockout) overlaps, ← hnamed]
    exact tellsOwner_ended owner (endContext_ended assign (room_of_noMarks marks _) (endsQuietly_of_state fun b => by
      cases named.get b <;> decide)).inactive
  rw [ends]
  have ended := next_endContext t assign (k := k) (r := .tripped) (named := named) (room_of_noMarks marks _)
    (endsQuietly_of_state fun b => by cases named.get b <;> decide) steady_w
  refine ⟨ended.endedWith, ?_, fun x => ?_⟩
  · rw [ended.recorder_eq undeferred]
    have incident : t.deviceIncident .protectionTrip d =
        { cls := .protectionTrip, sec := some b, dev := some d, src := some n, ctx := t.ownerContext d,
          cause := (t.ownerContext d).bind fun j => (t.context j).cause } := by
      unfold State.deviceIncident State.frameSection State.incomerSource
      rw [kind]
      rfl
    rw [← incident]
    unfold State.recordedEnd State.recorded State.attends State.framed
    rw [hw]
  · have state : (w.section x).state = (S.get x).state := by rw [hw]; rfl
    have inside : (w.context k).set = (t.context k).set := by rw [hw]; rfl
    have is : named.get x = ((w.island b).get x && (t.context k).set.get x) := by
      rw [hnamed]
      unfold State.tripNamed
      rw [Four.get_ofFn, inside]
    rw [ended.section_state, state, inside, is, locked, unfed]
    by_cases member : (t.context k).set.get x = true
    · rw [if_pos member, member, Bool.and_true]
      cases (w.island b).get x <;> rfl
    · have free : (t.section x).state ≠ .transferring := fun moving => member ((states x).1 moving)
      rw [if_neg member, if_neg member]
      by_cases out : (w.island b).get x = true
      · rw [if_pos out, if_pos ⟨out, free⟩]
      · rw [if_neg out, if_neg fun both => out both.1]

end Sys2Proof.Machine
end

section
/-! PROOFS. What evaluation, the taking of requests and an ending that completes no transfer keep (`Spares`): an OPEN that
waits is not cancelled, and a section keeps its borrow tie (R9, R30, R31, R123). -/

namespace Sys2Proof.Machine

structure Spares (s u : State) : Prop where
  opens : s.noDeferred → u.noDeferred ∧ opensStand s.injections u.injections
  borrow : ∀ b, (u.section b).borrow = (s.section b).borrow

theorem Spares.refl (s : State) : Spares s s := ⟨fun x => ⟨x, opensStand_refl _⟩, fun _ => rfl⟩

theorem Spares.trans {s t u : State} (h : Spares s t) (g : Spares t u) : Spares s u := by
  refine ⟨fun x => ?_, fun b => (g.borrow b).trans (h.borrow b)⟩
  obtain ⟨undeferred, first⟩ := h.opens x
  obtain ⟨last, second⟩ := g.opens undeferred
  exact ⟨last, opensStand_trans first second⟩

theorem Spares.foldl {α : Type} {f : State → α → State} (h : ∀ s x, Spares s (f s x)) (xs : List α) (s : State) :
    Spares s (xs.foldl f s) := by
  induction xs generalizing s with
  | nil => exact .refl s
  | cons x xs ih => exact (h s x).trans (ih _)

theorem Spares.light {s u : State} (h : (u.injections, u.devices, u.sections) = (s.injections, s.devices, s.sections)) :
    Spares s u := by
  simp only [Prod.mk.injEq] at h
  obtain ⟨injections, devices, sections⟩ := h
  refine ⟨fun x => ⟨fun d => ?_, by rw [injections]; exact opensStand_refl _⟩, fun b => by rw [State.section, sections]; rfl⟩
  rw [State.device, devices]
  exact x d

/-- An operation on the injection queue that cancels no OPEN. -/
theorem Spares.queued {s u : State} {I : List Injection} {D : List Nat} (stands : opensStand s.injections I)
    (shape : u = { s with injections := I, dirty := D }) : Spares s u := by
  subst shape
  exact ⟨fun x => ⟨x, stands⟩, fun _ => rfl⟩

theorem Spares.markAll (s : State) (offs : List Nat) : Spares s (s.markAll offs) := by
  rw [markAll_eq]
  exact .light rfl

theorem Spares.setQueue (s : State) (q : List Request) : Spares s (s.setQueue q) :=
  (Spares.light rfl : Spares s { s with queue := q }).trans (.markAll _ _)

theorem Spares.setSectionState (s : State) (b : SecId) (st : SectionState) : Spares s (s.setSectionState b st) := by
  obtain ⟨D, _, shape⟩ := setSectionState_shape s b st
  rw [shape]
  refine ⟨fun x => ⟨x, opensStand_refl _⟩, fun c => ?_⟩
  show ((s.sections.set b _).get c).borrow = (s.sections.get c).borrow
  rw [Four.get_set]
  split
  · next is =>
    subst is
    rfl
  · rfl

theorem Spares.setSectionStates (s : State) (bs : List SecId) (st : SectionState) :
    Spares s (s.setSectionStates bs st) :=
  .foldl (fun s b => .setSectionState s b st) bs s

theorem Spares.updContext (s : State) (k : CtxId) (f : Context → Context) : Spares s (s.updContext k f) := .light rfl

theorem Spares.command (s : State) (k : CtxId) (d : Option DevId) : Spares s (s.command k .opn d) := by
  obtain ⟨I, D, _, stands, shape⟩ := command_any s k d
  exact .queued stands shape

theorem Spares.enqueue (s : State) (d : DevId) (o : Enqueuer) : Spares s (s.enqueue d .opn o) := by
  by_cases record : s.hasRecord d = true
  · obtain ⟨D, _, shape⟩ := enqueue_shape (s := s) .opn o record
    exact .queued (opensStand_join _ rfl) shape
  · rw [show s.enqueue d .opn o = s from if_neg record]
    exact .refl s

theorem Spares.parallelRule (s : State) (k : CtxId) : Spares s (s.parallelRule k) := by
  obtain ⟨I, D, _, stands, shape⟩ := parallelRule_shape s k
  exact .queued stands shape

/-- Taking CLOSEs out of the queue. -/
theorem Spares.dropCloses (s : State) {p : Injection → Bool} (closes : ∀ e, p e = true → e.code = .cls) :
    Spares s (s.dropInjections p) := by
  obtain ⟨D, _, shape⟩ := dropInjections_shape s p
  refine .queued (fun e mem code => ⟨e, List.mem_filter.2 ⟨mem, ?_⟩, rfl, code⟩) shape
  cases is : p e with
  | false => rfl
  | true =>
    rw [closes e is] at code
    cases code

theorem Spares.cancelCloses (s : State) (k : CtxId) : Spares s (s.cancelCloses k) :=
  .dropCloses s fun _ is => beq_iff_eq.1 (Bool.and_eq_true_iff.1 is).1

theorem Spares.releaseSync (s : State) : Spares s s.releaseSync := by
  unfold State.releaseSync
  split
  · exact .light rfl
  · exact .refl s

theorem Spares.withdrawClaim (s : State) (k : CtxId) : Spares s (s.withdrawClaim k) := by
  unfold State.withdrawClaim
  split
  · exact .refl s
  · exact .light rfl
  · exact (Spares.releaseSync s).trans (.updContext _ _ _)

theorem Spares.workOutDemands (s : State) : Spares s s.workOutDemands := by
  obtain ⟨D, _, shape⟩ := workOutDemands_shape s
  rw [shape]
  exact .light rfl

theorem Spares.setOwner (s : State) (d : DevId) (o : Owner) : Spares s (s.setOwner d o) := by
  obtain ⟨D, _, shape⟩ := setOwner_shape s d o
  refine ⟨fun x => ⟨fun e => ?_, by rw [shape]; exact opensStand_refl _⟩, fun b => by rw [shape]; rfl⟩
  rw [setOwner_device]
  split
  · exact x d
  · exact x e

theorem Spares.setRecorder (s : State) (r : Recorder) : Spares s { s with recorder := r } := .light rfl

theorem Spares.raise (s : State) (i : Incident) : Spares s (s.raise i) := by
  have reuse : ∀ slot, Spares s (s.reuseSlot slot) := fun slot => by
    unfold State.reuseSlot
    split
    · next k _ =>
      unfold State.freeContext
      rw [markAll_eq]
      exact .light rfl
    · exact .refl s
  unfold State.raise
  exact ((reuse _).trans (.setRecorder _ _)).trans (.markAll _ _)

theorem recheck_section (k : CtxId) (s : State) (d : DevId) (b : SecId) :
    ((State.recheck k s d).section b).borrow = (s.section b).borrow := by
  have queued : ∀ (t : State) (c : Cmd) (o : Enqueuer), (t.enqueue d c o).sections = t.sections := fun t c o => by
    unfold State.enqueue
    split <;> rfl
  unfold State.recheck
  dsimp only
  split
  · rfl
  · split
    · rw [State.section, queued]
      rfl
    · exact (Spares.raise _ _).borrow b
    · rfl

theorem Spares.recheck (k : CtxId) (s : State) (d : DevId) : Spares s (State.recheck k s d) :=
  ⟨fun x => by rw [recheck_nothing (x d)]; exact ⟨x, opensStand_refl _⟩, recheck_section k s d⟩

theorem Spares.release (s : State) (k : CtxId) : Spares s (s.release k) := by
  unfold State.release
  exact ((Spares.cancelCloses s k).trans (.foldl (fun s d => .setOwner s d _) _ _)).trans (.foldl (Spares.recheck k) _ _)

section
variable {asg : State → State} (hA : ∀ s, Spares s (asg s))
include hA

/-! ## Evaluation (R95 to R100) -/

omit hA in
theorem Spares.join (s : State) (q : List Request) (e : Request) : Spares s ((s.setQueue q).queueSections e) :=
  (Spares.setQueue s _).trans (.setSectionStates _ _ _)

theorem Spares.placeReturn (e : Request) (s : State) : Spares s (s.placeReturn asg e) := by
  unfold State.placeReturn
  split
  · exact .refl s
  · exact (Spares.join s _ e).trans (hA _)

theorem Spares.evaluateReturn (b : SecId) (cause : Option Slot) (s : State) : Spares s (s.evaluateReturn asg b cause) := by
  have one : ∀ f s x, Spares s (State.evaluateReturnSet asg f cause s x) := fun f s x => by
    unfold State.evaluateReturnSet
    dsimp only
    split
    · split
      · exact .placeReturn hA _ s
      · exact .refl s
    · exact .refl s
  unfold State.evaluateReturn
  dsimp only
  split
  · split
    · exact .foldl (one _) _ s
    · exact .refl s
  · exact .refl s

theorem Spares.evaluateN (n : Nat) (cause : Option Slot) (bs : List SecId) (s : State) :
    Spares s (Machine.evaluateN asg n cause bs s) := by
  induction n generalizing cause bs s with
  | zero => exact .refl s
  | succ n ih =>
    unfold Machine.evaluateN
    refine .foldl (fun s b => ?_) _ s
    dsimp only
    split
    · split
      · exact .refl s
      · split
        · unfold State.placeSupply
          exact (((Spares.join s _ _).trans (.setSectionStates _ _ _)).trans (ih none _ _)).trans (hA _)
        · exact .setSectionStates s _ _
    · exact .evaluateReturn hA b cause s

theorem Spares.evaluate (cause : Option Slot) (bs : List SecId) (s : State) : Spares s (s.evaluate asg cause bs) :=
  .evaluateN hA 5 cause bs s

omit hA in
theorem Spares.withdraw (s : State) (e : Request) (st : SectionState) :
    Spares s ((s.removeRequest e).setSectionStates (FourSet.toList e.set) st) :=
  (Spares.setQueue s _).trans (.setSectionStates _ _ _)

/-! ## An ending that completes no transfer (R124) -/

theorem Spares.endSections (k : CtxId) {r : Result} (named : FourSet) (s : State) (partial_ : r.completed = false) :
    Spares s (s.endSections asg k r named) := by
  unfold State.endSections
  dsimp only
  rw [partial_]
  exact (Spares.foldl (fun s b => .setSectionState s b (sectionAfter r (named.get b))) _ s).trans (.evaluate hA _ _ _)

omit hA in
theorem Spares.beginEnd (k : CtxId) (r : Result) (s : State) : Spares s (s.beginEnd k r) :=
  ((Spares.parallelRule s k).trans (.withdrawClaim _ k)).trans (.updContext _ k _)

theorem Spares.endContext (k : CtxId) {r : Result} (named : FourSet) (s : State) (partial_ : r.completed = false) :
    Spares s (Machine.endContext asg k r named s) := by
  rw [endContext_eq]
  refine ((((Spares.beginEnd k r s).trans (.workOutDemands _)).trans (.release _ k)).trans
    (.endSections hA k named _ partial_)).trans ?_
  unfold State.raiseEnd
  exact (Spares.raise _ _).trans (.setRecorder _ _)

/-! ## The taking of a request (R101, R102, R109 to R116) -/

theorem Spares.leaveOpening (k : CtxId) (s : State) : Spares s (Machine.leaveOpening asg k s) := by
  unfold Machine.leaveOpening
  dsimp only
  split
  · exact .endContext hA k _ s rfl
  · split
    · exact .light rfl
    · exact .endContext hA k _ s rfl

theorem Spares.enterOpening (k : CtxId) (s : State) : Spares s (Machine.enterOpening asg k s) := by
  unfold Machine.enterOpening
  dsimp only
  split
  · exact (Spares.updContext s k _).trans (.endContext hA k _ _ rfl)
  · have queued : ∀ ds s, Spares s (List.foldl (fun s d => State.enqueue s d .opn (.context k)) s ds) :=
      fun ds s => .foldl (fun s d => .enqueue s d _) ds s
    split
    · exact (((Spares.updContext s k _).trans (queued _ _)).trans (.updContext _ k _)).trans (.leaveOpening hA k _)
    · exact ((Spares.updContext s k _).trans (queued _ _)).trans (.updContext _ k _)

theorem Spares.takeRoute (k : CtxId) (r : Route) (s : State) : Spares s (Machine.takeRoute asg k r s) :=
  ((Spares.updContext s k _).trans (.workOutDemands _)).trans (.enterOpening hA k _)

omit hA in
theorem Spares.enterAwait (s : State) (k : CtxId) (n : SrcId) : Spares s (s.enterAwait k n) := by
  unfold State.enterAwait
  dsimp only
  split
  · exact (Spares.updContext s k _).trans (.workOutDemands _)
  · exact ((Spares.updContext s k _).trans (.updContext _ k _)).trans (.workOutDemands _)

theorem Spares.selectList (k : CtxId) (s : State) : Spares s (Machine.selectList asg k s) := by
  unfold Machine.selectList
  dsimp only
  split
  · exact .endContext hA k _ s (by split <;> rfl)
  · split
    · exact .takeRoute hA k _ s
    · split
      · exact .enterAwait s k _
      · exact .endContext hA k _ s rfl

theorem Spares.enterSelect (k : CtxId) (s : State) : Spares s (Machine.enterSelect asg k s) := by
  have fixed : ∀ r s, Spares s (Machine.selectFixed asg k r s) := fun r s => by
    unfold Machine.selectFixed
    dsimp only
    split
    · exact .takeRoute hA k r s
    · split
      · exact .endContext hA k _ s rfl
      · exact (Spares.updContext s k _).trans (.selectList hA k _)
  unfold Machine.enterSelect
  dsimp only
  split
  · exact (Spares.updContext s k _).trans (fixed _ _)
  · exact (Spares.updContext s k _).trans (.selectList hA k _)

theorem Spares.returnToSelect (k : CtxId) (ex : Option Route) (old : Bool) (s : State) :
    Spares s (Machine.returnToSelect asg k ex old s) := by
  have back : Spares s (s.goingBack k ex) :=
    (((Spares.updContext s k _).trans (.withdrawClaim _ k)).trans (.updContext _ k _)).trans (.cancelCloses _ k)
  rw [returnToSelect_eq]
  split
  · exact back.trans (.updContext _ k _)
  · exact back.trans (.enterSelect hA k _)

theorem Spares.enterSyncWait (k : CtxId) (s : State) : Spares s (Machine.enterSyncWait asg k s) := by
  unfold Machine.enterSyncWait
  dsimp only
  split
  · exact .light rfl
  · exact (Spares.updContext s k _).trans (.returnToSelect hA k _ _ _)

theorem Spares.startContext (k : CtxId) (e : Request) (set : FourSet) (s : State) :
    Spares s (Machine.startContext asg k e set s) := by
  have capture : ∀ s d, Spares s (State.capture k s d) := fun s d => by
    unfold State.capture
    dsimp only
    split
    · refine (Spares.setOwner s d _).trans (.dropCloses _ fun e is => ?_)
      exact beq_iff_eq.1 (Bool.and_eq_true_iff.1 (Bool.and_eq_true_iff.1 is).1).2
    · exact .refl s
  unfold Machine.startContext
  dsimp only
  have start : Spares s (allDevices.foldl (State.capture k) (s.setContext k (s.startRecord e set))) :=
    Spares.trans (t := s.setContext k (s.startRecord e set)) (.light rfl) (.foldl capture _ _)
  split
  · exact start.trans (.enterSelect hA k _)
  · exact start.trans (.enterSyncWait hA k _)

theorem Spares.take (k : CtxId) (e : Request) (set : FourSet) (s : State) : Spares s (s.take asg k e set) := by
  unfold State.take
  refine Spares.trans ?_ (.startContext hA k e set _)
  refine Spares.trans ?_ (.setSectionStates _ _ _)
  refine Spares.trans ?_ (.setSectionStates _ _ _)
  exact (Spares.setQueue s _).trans (.light rfl)

theorem Spares.failTaking (e : Request) (t : Taking) (s : State) : Spares s (s.failTaking asg e t) := by
  have armed : ∀ s, Spares s (s.withdrawArmed asg e) := fun s =>
    (Spares.withdraw s e _).trans (.evaluate hA _ _ _)
  unfold State.failTaking
  dsimp only
  split
  · exact .withdraw s e _
  · exact armed s
  · split
    · exact (Spares.raise s _).trans (armed _)
    · exact armed s
  · exact .refl s

end

theorem Spares.assignN (n : Nat) (s : State) : Spares s (Machine.assignN n s) := by
  induction n generalizing s with
  | zero => exact .refl s
  | succ n ih =>
    unfold Machine.assignN
    split
    · exact .refl s
    · split
      · split
        · exact (Spares.take ih _ _ _ s).trans (ih _)
        · exact (Spares.failTaking ih _ _ s).trans (ih _)
      · exact .refl s

/-- Context assignment (R101). -/
theorem Spares.assign (s : State) : Spares s (Machine.assign s) := .assignN _ s

/-! ## The end of the event -/

theorem Spares.settleFreed {s : State} (no_copy : s.store.pendingCopy = none) (n : Nat) :
    Spares s (Machine.settleFreed n s) := by
  induction n generalizing s with
  | zero => exact .light rfl
  | succ n ih =>
    unfold Machine.settleFreed
    split
    · exact .refl s
    · obtain ⟨v, hv⟩ : ∃ v : State, v = { s with freed := Three.fill false } := ⟨_, rfl⟩
      have takes : v.afterFreeing = Machine.assign v := by
        unfold State.afterFreeing State.applyIfFree
        rw [show v.store.pendingCopy = none by rw [hv]; exact no_copy]
      have store : (Machine.assign v).store = s.store := by
        rw [store_of_standing (Stays.assign v).standing, hv]
      rw [← hv, takes]
      exact ((Spares.light (by rw [hv]) : Spares s v).trans (.assign v)).trans (ih (by rw [store]; exact no_copy))

/-- The end of an event that applies no copy. -/
theorem Spares.finish {s : State} (before : State) (kept : s.store.pendingCopy = none ∨ s.settled) :
    Spares s (s.finish before) := by
  have watch : ∀ s k, Spares s (State.watchDead s k) := fun s k => by
    unfold State.watchDead
    dsimp only
    split
    · split
      · split
        · exact .refl s
        · exact .light rfl
      · exact .light rfl
    · exact .refl s
  have settle : Spares s (Machine.settleFreed Config.freeingRounds s) := by
    rcases kept with no_copy | settled
    · exact .settleFreed no_copy _
    · rw [settleFreed_settled _ _ settled]
      exact .refl s
  unfold State.finish State.markChanged
  exact (settle.trans (.foldl watch _ _)).trans (.markAll _ _)

end Sys2Proof.Machine
end

section
/-! PROOFS. A source lost in a transfer (R144 to R146). -/

namespace Sys2Proof.Machine

/-! ## The notice of a source lost (R82, R144) -/

theorem Leaves.onSourceLost {asg : State → State} (hA : ∀ s, Stays s (asg s)) (n : SrcId) (s : State) (k : CtxId) :
    Leaves k s (Machine.onSourceLost asg n s k) := by
  unfold Machine.onSourceLost
  dsimp only
  split
  · exact .refl k s
  · split
    · split
      · exact .returnToSelect hA k _ _ s
      · exact .returnToSelect hA k _ _ s
      · exact .returnToSelect hA k _ _ s
      · exact .returnToSelect hA k _ _ s
      · split
        · exact .refl k s
        · exact .endContext hA k _ _ s
      · exact (Stays.openRoute s k).then (.endContext hA k _ _ _)
      · exact (Stays.updContext s k _).then (.returnToSelect hA k _ _ _)
      · exact .refl k s
      · exact .refl k s
      · exact .refl k s
    · split
      · exact .returnToSelect hA k _ _ s
      · exact .refl k s

/-- A loss under REPORT, context k alone in a transfer: the event is its reaction. -/
theorem exec_rideThroughExpiry_tells {s : State} {n : SrcId} {k : CtxId} (dip : (s.source n).state = .dip)
    (ride : (s.source n).ride = some s.ms) (report : s.board.responses.lossTransfer = false)
    (alone : ∀ j, s.active j = true ↔ j = k) (noMarks : s.noMarks) :
    ∃ w, w = { s with
        sources := s.sources.set n { s.source n with state := .failed, ride := none },
        recorder := s.recorded (s.sourceIncident .sourceLoss n 0), dirty := markList s.frameMarks s.dirty } ∧
      exec (.rideThroughExpiry n) s = .next ((onSourceLost assign n w k).finish s) := by
  obtain ⟨w, hw⟩ : ∃ w, w = s.lost n := ⟨_, rfl⟩
  have shape := hw.trans (lost_eq n (slotUnmarked_of_noMarks noMarks))
  have active : ∀ j, w.active j = s.active j := fun j => by rw [shape]; rfl
  have told : w.tellLost n = onSourceLost assign n w k := by
    have only : ∀ j, j ≠ k → w.active j = false := fun j ne => by
      rw [active]
      exact Bool.eq_false_iff.2 fun is => ne ((alone j).1 is)
    unfold State.tellLost
    rw [tellEach_one w _ only, active, (alone k).2 rfl]
    rfl
  have store : (onSourceLost assign n w k).store = s.store := by
    rw [store_of_standing (Leaves.onSourceLost Stays.assign n w k).standing, shape]
  refine ⟨w, shape, ?_⟩
  rw [exec_rideThroughExpiry_due dip ride, rideExpires_report, ← hw, told]
  rw [← hw, told, State.board, store]
  exact report

section
variable {s : State} {k : CtxId} {n : SrcId} (asg : State → State) (active : s.active k = true)
include active

omit active in
theorem targetSource_source (target : (s.context k).target = some (.source n)) :
    s.targetSource (s.context k) = some n := by
  unfold State.targetSource
  rw [target]

theorem onSourceLost_opening (target : (s.context k).target = some (.source n))
    (phase : (s.context k).phase = .opening) : onSourceLost asg n s k = rerouteTarget asg k s := by
  unfold onSourceLost
  dsimp only
  rw [active, targetSource_source target, phase]
  simp

theorem onSourceLost_syncWait (target : (s.context k).target = some (.source n))
    (phase : (s.context k).phase = .syncWait) (claims : (s.context k).claim ≠ .none) :
    onSourceLost asg n s k = endContext asg k .returnCancelled FourSet.none s := by
  unfold onSourceLost
  dsimp only
  rw [active, targetSource_source target, phase]
  simp [claims]

theorem onSourceLost_parallel (target : (s.context k).target = some (.source n))
    (phase : (s.context k).phase = .closingParallel) :
    onSourceLost asg n s k = endContext asg k .returnCancelled FourSet.none (s.openRoute k) := by
  unfold onSourceLost
  dsimp only
  rw [active, targetSource_source target, phase]
  simp

theorem onSourceLost_old {m : SrcId} (target : (s.context k).target = some (.source m)) (other : m ≠ n)
    (old : (s.context k).oldSources.get n = true) (phase : (s.context k).phase = .syncWait)
    (claims : (s.context k).claim ≠ .none) :
    onSourceLost asg n s k = returnToSelect asg k none false s := by
  unfold onSourceLost
  dsimp only
  rw [active, targetSource_source target, old, phase]
  simp [claims, other]

end

/-! ## The target lost in OPENING (R144, R145) -/

theorem goneBack_target {c : Context} {r : Route} (timer : c.timer = none) (open_ : c.excluded.contains r = false) :
    c.goneBack (some r) = { c.sentBack with excluded := c.excluded ++ [r] } := by
  have kept : keptTimer c.timer = c.timer := by rw [timer]; rfl
  unfold Context.goneBack Context.sentBack
  rw [exclude_some, open_, kept]
  rfl

theorem goneBack_none {c : Context} (timer : c.timer = none) : c.goneBack none = c.sentBack := by
  have kept : keptTimer c.timer = c.timer := by rw [timer]; rfl
  unfold Context.goneBack Context.sentBack
  rw [kept]
  rfl

/-- A context of OPENING with something to open waits with the reroute mark (R143). -/
theorem rerouteTarget_waits {s : State} {k : CtxId} {r : Route} (asg : State → State) (target : (s.context k).target = some r)
    (phase : (s.context k).phase = .opening) (left : DevSet.isEmpty (s.context k).opening = false)
    (unclaimed : (s.context k).claim = .none) (timer : (s.context k).timer = none)
    (open_ : (s.context k).excluded.contains r = false) :
    ∃ D, (∀ off ∈ s.dirty, off ∈ D) ∧ rerouteTarget asg k s = { s with
      contexts := s.contexts.set k
        { (s.context k).sentBack with excluded := (s.context k).excluded ++ [r], reroute := true },
      injections := s.injections.filter fun e => !(e.code == .cls && e.owner == .context k), dirty := D } := by
  obtain ⟨D, marked, back⟩ := goingBack_unclaimed (some r) unclaimed
  obtain ⟨v, hv⟩ : ∃ v, v = s.goingBack k (some r) := ⟨_, rfl⟩
  have shape := hv.trans back
  have vcontext : v.context k = { (s.context k).sentBack with excluded := (s.context k).excluded ++ [r] } := by
    rw [← goneBack_target timer open_, shape]
    exact Three.get_set_same _ _ _
  have waits : v.mustSettle k false = true := by
    unfold State.mustSettle
    dsimp only
    rw [vcontext]
    show (match (s.context k).phase with
      | .opening => !DevSet.isEmpty (s.context k).opening
      | .openingOld => _
      | .syncWait | .closingParallel => false
      | _ => false) = true
    rw [phase, left]
    rfl
  refine ⟨D, marked, ?_⟩
  unfold rerouteTarget
  rw [returnToSelect_eq, target, ← hv, waits, if_pos rfl]
  show ({ v with contexts := v.contexts.set k { v.context k with reroute := true } } : State) = _
  rw [vcontext, shape]
  dsimp only
  rw [Three.set_set]

/-! ## The transfer cancelled (R145, R146) -/

theorem openRoute_shape (s : State) (k : CtxId) :
    ∃ I D, opensStand s.injections I ∧ s.openRoute k = { s with injections := I, dirty := D } ∧
      ∀ d, (s.context k).routeDevice = some d → s.owns k d = true → s.countedClosed d = true →
        ∃ e ∈ I, e.device = d ∧ e.code = .opn := by
  have same : s.openRoute k = s → ∃ I D, opensStand s.injections I ∧ s.openRoute k = { s with injections := I, dirty := D } :=
    fun is => ⟨s.injections, s.dirty, opensStand_refl _, is⟩
  unfold State.openRoute at same ⊢
  cases route : (s.context k).routeDevice with
  | none =>
    rw [route] at same
    obtain ⟨I, D, stands, shape⟩ := same rfl
    exact ⟨I, D, stands, shape, fun d is => by cases is⟩
  | some r =>
    rw [route] at same
    dsimp only at same ⊢
    by_cases opens : s.countedClosed r = true ∧ s.owns k r = true
    · obtain ⟨closed, own⟩ := opens
      obtain ⟨D, _, shape⟩ := command_shape (s := s) .opn own
      rw [if_pos closed]
      refine ⟨_, D, opensStand_join _ rfl, shape, fun d is _ _ => ?_⟩
      cases is
      exact ⟨_, mem_joinInjection_self _ _, rfl, rfl⟩
    · have stays : (if s.countedClosed r then s.command k .opn (some r) else s) = s := by
        split
        · next closed => exact if_neg fun own => opens ⟨closed, own⟩
        · rfl
      obtain ⟨I, D, stands, shape⟩ := same stays
      refine ⟨I, D, stands, shape, fun d is own closed => ?_⟩
      cases is
      exact absurd ⟨closed, own⟩ opens

/-- An ending that completes no transfer cancels no OPEN, to the end of its event. -/
theorem next_endContext_spares {s : State} (before : State) {k : CtxId} {r : Result} {named : FourSet}
    (partial_ : r.completed = false) (settled : s.settled) (noDeferred : s.noDeferred) (noMarks : s.noMarks) :
    Spares s ((endContext assign k r named s).finish before) := by
  have leaves := Leaves.endContext Stays.assign k r named s
  refine (Spares.endContext Spares.assign k named s partial_).trans (.finish before ?_)
  cases copy : s.store.pendingCopy with
  | none => exact .inl (by rw [store_of_standing leaves.standing]; exact copy)
  | some m => exact .inr (leaves.resting ⟨settled, by rw [copy]; rfl, noDeferred, noMarks⟩).1

theorem nothingToEvaluate_of_standing {s u : State} (standing : u.standing = s.standing) (nothing : u.nothingToEvaluate) :
    s.nothingToEvaluate :=
  nothingToEvaluate_of_closed (s := u) (u := s) (store_of_standing standing).symm
    (fun d => (congrFun (countedClosed_of_standing standing) d).symm) (fun n => (state_of_standing standing n).symm) nothing

/-- The transfer that the loss of its target cancels, seen from the state s that the event met, `i` its frame. -/
theorem next_cancelled {s w : State} {k : CtxId} {i : Incident} (context : w.context k = s.context k)
    (sections : w.sections = s.sections) (recorder : w.recorder = s.recorded i) (ms : w.ms = s.ms)
    (store : w.store = s.store) (noDeferred : w.noDeferred) (noMarks : w.noMarks) (steady : w.steadyBut k)
    (nothing : ((endContext assign k .returnCancelled FourSet.none w).finish s).nothingToEvaluate) :
    (s.framed i).ends ((endContext assign k .returnCancelled FourSet.none w).finish s) k .returnCancelled .armed := by
  have standing := (Leaves.endContext Stays.assign k .returnCancelled FourSet.none w).finish_standing s steady.1
    noDeferred noMarks
  have ended := next_endContext s assign (k := k) (r := .returnCancelled) (named := FourSet.none)
    (room_of_noMarks noMarks _) (.inr (nothingToEvaluate_of_standing standing nothing)) steady
  refine ends_congr (s := s.framed i) (ended.ends noDeferred fun _ => rfl) ?_ (fun b => ?_) recorder ms store
  · rw [context]
    rfl
  · rw [State.section, sections]
    rfl

/-! ## The old source lost in SYNC_WAIT (R146) -/

/-- A SOURCE route asks of the source states its own alone. -/
theorem usable_source_congr {s u : State} {k : CtxId} {m : SrcId} (store : u.store = s.store)
    (devices : u.devices = s.devices) (state : (u.source m).state = (s.source m).state)
    (set : (u.context k).set = (s.context k).set) : u.usable k false (.source m) = s.usable k false (.source m) := by
  have device : u.routeDeviceFor (s.context k).set (.source m) = s.routeDeviceFor (s.context k).set (.source m) := by
    cases s; cases u; cases store; rfl
  unfold State.usable State.usableFor State.isAvailable
  dsimp only
  rw [set, device, shedLoad_congr store devices, state]
  simp only [owns_congr store devices, usableDevice_congr store devices, closed_congr store devices,
    fits_congr store devices]

/-- Settles O45: a source lost in a transfer. -/
theorem sourceLossInATransfer : Obligations.SourceLossInATransfer := by
  intro s k n c i dip ride report alone context steady noMarks incident
  subst context
  obtain ⟨w, hw, row⟩ := exec_rideThroughExpiry_tells dip ride report alone noMarks
  have frame : s.sourceIncident .sourceLoss n 0 = i := incident.symm
  rw [frame] at hw
  have wcontext : w.context k = s.context k := by rw [hw]; rfl
  have active : w.active k = true := by
    unfold State.active
    rw [wcontext]
    exact (alone k).2 rfl
  have wmarks : w.noMarks := by rw [hw]; exact noMarks
  have wsteady : w.steady := by rw [hw]; exact steady
  refine ⟨fun target phase left unclaimed timer open_ => ?_, fun target phases noDeferred => ?_,
    fun m d x other target fixed old phase waiting timer route incomer open_ usable opens own some_ => ?_⟩
  · rw [onSourceLost_opening assign active (by rw [wcontext]; exact target) (by rw [wcontext]; exact phase)] at row
    obtain ⟨D₁, marked₁, waits⟩ := rerouteTarget_waits (s := w) assign (by rw [wcontext]; exact target)
      (by rw [wcontext]; exact phase) (by rw [wcontext]; exact left) (by rw [wcontext]; exact unclaimed)
      (by rw [wcontext]; exact timer) (by rw [wcontext]; exact open_)
    rw [waits, wcontext, hw] at row
    rw [row]
    refine next_finish_steady (steady_after (t := s) (k := k) steady rfl rfl ?_) fun off mem => marked₁ off ?_
    · unfold Context.sentBack
      dsimp only
      rw [phase]
      decide
    · rw [hw]
      exact (mem_markList _ _ _).2 (List.mem_append.1 mem)
  · obtain ⟨v, I, D, hv, cancels, opens⟩ : ∃ (v : State) (I : List Injection) (D : List Nat),
        v = { w with injections := I, dirty := D } ∧
        onSourceLost assign n w k = endContext assign k .returnCancelled FourSet.none v ∧
        ∀ d, (s.context k).phase = .closingParallel → (s.context k).routeDevice = some d → s.owns k d = true →
          s.countedClosed d = true → ∃ e ∈ v.injections, e.device = d ∧ e.code = .opn := by
      rcases phases with ⟨phase, claims⟩ | phase
      · refine ⟨w, w.injections, w.dirty, rfl, onSourceLost_syncWait assign active (by rw [wcontext]; exact target)
          (by rw [wcontext]; exact phase) (by rw [wcontext]; exact claims), fun d is => ?_⟩
        rw [phase] at is
        cases is
      · obtain ⟨I, D, _, shape, queued⟩ := openRoute_shape w k
        refine ⟨_, I, D, shape, onSourceLost_parallel assign active (by rw [wcontext]; exact target)
          (by rw [wcontext]; exact phase), fun d _ route own closed => ?_⟩
        rw [shape]
        exact queued d (by rw [wcontext]; exact route) (by rw [hw]; exact own) (by rw [hw]; exact closed)
    have undeferred : v.noDeferred := by rw [hv, hw]; exact noDeferred
    have marks : v.noMarks := by rw [hv]; exact wmarks
    have vsteady : v.steadyBut k := by rw [hv]; exact steadyBut_of_steady wsteady k
    rw [cancels] at row
    refine ⟨_, row, ?_, fun d phase route own closed => ?_, fun nothing => ?_⟩
    · rw [((Inside.endContext Inside.assign k .returnCancelled FourSet.none v).trans (.finish _ s)).image, hv, hw]
    · obtain ⟨e, mem, device, code⟩ := opens d phase route own closed
      obtain ⟨_, stands⟩ := (next_endContext_spares s (k := k) (r := .returnCancelled) (named := FourSet.none) rfl
        vsteady.1 undeferred marks).opens undeferred
      obtain ⟨e', mem', device', code'⟩ := stands e mem code
      exact ⟨e', mem', device'.trans device, code'⟩
    · exact next_cancelled (by rw [hv]; exact wcontext) (by rw [hv, hw]) (by rw [hv, hw]) (by rw [hv, hw])
        (by rw [hv, hw]) undeferred marks vsteady nothing
  · rw [onSourceLost_old assign active (by rw [wcontext]; exact target) other (by rw [wcontext]; exact old)
      (by rw [wcontext]; exact phase) (by rw [wcontext, waiting]; decide)] at row
    obtain ⟨D₁, _, back⟩ := goingBack_waiting (s := w) (k := k) none (by rw [wcontext]; exact waiting)
    obtain ⟨v, hv⟩ : ∃ v, v = w.goingBack k none := ⟨_, rfl⟩
    have shape := hv.trans back
    rw [wcontext, goneBack_none timer, hw] at shape
    have vcontext : v.context k = (s.context k).sentBack := by
      rw [shape]
      exact Three.get_set_same _ _ _
    have settles : v.mustSettle k false = false := by
      unfold State.mustSettle
      dsimp only
      rw [vcontext, show (s.context k).sentBack.phase = .syncWait from phase]
    obtain ⟨y, hy⟩ : ∃ y, y = v.updContext k Context.selecting := ⟨_, rfl⟩
    have yshape : y = { v with contexts := v.contexts.set k (s.context k).sentBack.selecting } := by
      rw [hy, ← vcontext]
      rfl
    have ycontext : y.context k = (s.context k).sentBack.selecting := by
      rw [yshape]
      exact Three.get_set_same _ _ _
    have state : (y.source m).state = (s.source m).state := by
      rw [yshape, shape]
      unfold State.source
      rw [Four.get_set_ne _ other]
    have goes : returnToSelect assign k none false w = takeRoute assign k (.source m) y := by
      rw [returnToSelect_eq, ← hv, settles, if_neg (by simp),
        enterSelect_fixed assign (by rw [vcontext]; exact fixed) (by rw [vcontext]; exact target), ← hy]
      refine selectFixed_takes assign (by rw [ycontext]; exact open_) ?_
      rw [usable_source_congr (s := s) (by rw [yshape, shape]) (by rw [yshape, shape]) state (by rw [ycontext]; rfl)]
      exact usable
    have leaves : ((s.context k).sentBack.selecting).leaves d = (s.context k).abandoned.set d false := by
      show (match (s.context k).routeDevice with
        | some o => ((s.context k).abandoned.set o true).set d false
        | none => (s.context k).abandoned.set d false) = _
      rw [route]
      exact Sixteen.set_set _ _ _ _
    have device : y.routeDeviceFor (s.context k).set (.source m) = some d := by
      rw [yshape, shape]
      exact incomer
    obtain ⟨R, D₂, _, _, route_⟩ := takeRoute_opens (s := y) (k := k) (c := (s.context k).sentBack.selecting) (r := .source m)
      (d := d) (x := x) assign ycontext rfl device (by
        rw [leaves, ← opens]
        exact opens_congr (by rw [yshape, shape]) (by rw [yshape, shape]) rfl rfl rfl _) (fun e mem => by
        rw [owns_congr (s := s) (by rw [yshape, shape]) (by rw [yshape, shape])]
        exact own e mem) some_
    rw [goes, route_, leaves] at row
    obtain ⟨z, hz⟩ : ∃ z : State, z = { y with
      contexts := y.contexts.set k
        (y.openingOn (s.context k).sentBack.selecting ((s.context k).abandoned.set d false) x (.source m) d),
      injections := y.openingQueue k x y.injections, sources := R, dirty := D₂ } := ⟨_, rfl⟩
    rw [← hz] at row
    have record : y.openingOn (s.context k).sentBack.selecting ((s.context k).abandoned.set d false) x (.source m) d =
        s.openingOn (s.context k).sentBack ((s.context k).abandoned.set d false) x (.source m) d := by
      rw [yshape, shape]
      rfl
    have contexts : z.contexts = s.contexts.set k
        (s.openingOn (s.context k).sentBack ((s.context k).abandoned.set d false) x (.source m) d) := by
      rw [hz, record, yshape, shape]
      dsimp only
      rw [Three.set_set, Three.set_set]
    obtain ⟨D, _, ended⟩ := next_finish_steady (t := s) (u := z) (marks := [])
      (steady_after (t := s) (k := k) steady contexts (by rw [hz, yshape, shape])
        (show Phase.opening ≠ .deadWait by decide)) fun _ mem => by cases mem
    refine ⟨{ z with dirty := D }, row.trans ended, ?_, ?_, ?_, ?_, ?_, ?_, ?_⟩
    · rw [hz, yshape, shape]
    · rw [hz, yshape, shape]
    · show z.contexts.get k = _
      rw [contexts, Three.get_set_same]
    · rw [hz, yshape, shape]
      rfl
    · rw [hz, yshape, shape]
    · rw [hz, yshape, shape]
    · rw [hz, yshape, shape]

end Sys2Proof.Machine
end

section
/-! PROOFS. EMERGENCY ownership, and application (R16 to R18, R161): what each of its steps leaves, device by device and
section by section. -/

namespace Sys2Proof.Machine

/-! ## Taking devices into EMERGENCY ownership (R161) -/

/-- A device of record x passes to EMERGENCY ownership. -/
def State.seizable (s : State) (d : DevId) (x : Device) : Bool :=
  s.hasRecord d && (s.entry d).emergencyOpen && x.owner != .emergency

/-- A device of record x is counted closed (R5). -/
def State.closedAs (s : State) (d : DevId) (x : Device) : Bool :=
  s.hasRecord d && (x.observed != .opened ||
    match x.op with
    | .inProgress .cls _ => true
    | _ => false)

/-- The record once the device has been taken. -/
def State.seizedRecord (s : State) (d : DevId) (x : Device) : Device :=
  if s.seizable d x then { x with owner := .emergency, deferred := none } else x

/-- The OPEN that EMERGENCY queues for a device. -/
def emergencyOpening (d : DevId) (x : Device) : Injection := ⟨d, .opn, x.tag + 1, .emergency⟩

/-- The injection queue once the device has been taken. -/
def State.seizedQueue (s : State) (d : DevId) (x : Device) (q : List Injection) : List Injection :=
  if s.seizable d x && s.closedAs d x then joinInjection (emergencyOpening d x) q else q

theorem seize_shape (s : State) (d : DevId) :
    ∃ D, (∀ off ∈ s.dirty, off ∈ D) ∧ s.seize d = { s with
      devices := s.devices.set d (s.seizedRecord d (s.device d)),
      injections := s.seizedQueue d (s.device d) s.injections, dirty := D } := by
  by_cases takes : s.seizable d (s.device d) = true
  · obtain ⟨D₁, marked₁, owned⟩ := setOwner_shape (s.updDevice d fun x => { x with deferred := none }) d .emergency
    obtain ⟨w, hw⟩ : ∃ w, w = (s.updDevice d fun x => { x with deferred := none }).setOwner d .emergency := ⟨_, rfl⟩
    have shape : w = { s with devices := s.devices.set d (s.seizedRecord d (s.device d)), dirty := D₁ } := by
      rw [hw, owned]
      unfold State.seizedRecord State.updDevice State.setDevice State.device
      dsimp only
      rw [Sixteen.get_set_same, Sixteen.set_set]
      rw [show s.seizable d (s.devices.get d) = true from takes]
      rfl
    have record : w.hasRecord d = true := by
      rw [shape]
      exact (Bool.and_eq_true_iff.1 (Bool.and_eq_true_iff.1 takes).1).1
    have tag : (w.device d).tag = (s.device d).tag := by
      rw [shape]
      unfold State.device State.seizedRecord
      rw [Sixteen.get_set_same]
      split <;> rfl
    have seizes : s.seize d = if s.closedAs d (s.device d) then w.enqueue d .opn .emergency else w := by
      unfold State.seize
      rw [← hw]
      exact if_pos takes
    rw [seizes]
    unfold State.seizedQueue
    rw [takes, Bool.true_and]
    split
    · obtain ⟨D₂, marked₂, queued⟩ := enqueue_shape (s := w) .opn .emergency record
      refine ⟨D₂, fun off mem => marked₂ off (by rw [shape]; exact marked₁ off mem), ?_⟩
      have entry : w.injectionFor d .opn .emergency = emergencyOpening d (s.device d) := by
        unfold State.injectionFor emergencyOpening
        rw [tag]
      rw [queued, entry, shape]
    · exact ⟨D₁, marked₁, shape⟩
  · refine ⟨s.dirty, fun _ mem => mem, ?_⟩
    have stays : s.seize d = s := if_neg takes
    rw [stays]
    unfold State.seizedRecord State.seizedQueue
    rw [if_neg takes, if_neg fun both => takes (Bool.and_eq_true_iff.1 both).1]
    show s = { s with devices := s.devices.set d (s.devices.get d) }
    rw [Sixteen.set_get]

/-- The injection queue once the devices of a list, of the records x, have been taken in turn. -/
def State.seizedQueues (s : State) (x : DevId → Device) (ds : List DevId) (q : List Injection) : List Injection :=
  ds.foldl (fun q d => s.seizedQueue d (x d) q) q

theorem mem_seizedQueue {s : State} {d : DevId} {x : Device} {q : List Injection} {e : Injection}
    (mem : e ∈ s.seizedQueue d x q) : e ∈ q ∨ (e.device = d ∧ s.seizable d x = true) := by
  unfold State.seizedQueue at mem
  split at mem
  · next both =>
    unfold joinInjection at mem
    split at mem
    · obtain ⟨y, my, is⟩ := List.mem_map.1 mem
      split at is
      · exact .inr ⟨by rw [← is]; rfl, (Bool.and_eq_true_iff.1 both).1⟩
      · exact .inl (by rw [← is]; exact my)
    · rcases List.mem_append.1 mem with old | new
      · exact .inl old
      · exact .inr ⟨by rw [List.mem_singleton.1 new]; rfl, (Bool.and_eq_true_iff.1 both).1⟩
  · exact .inl mem

theorem mem_seizedQueues {s : State} {x : DevId → Device} {ds : List DevId} {q : List Injection} {e : Injection}
    (mem : e ∈ s.seizedQueues x ds q) : e ∈ q ∨ s.seizable e.device (x e.device) = true := by
  induction ds generalizing q with
  | nil => exact .inl mem
  | cons d ds ih =>
    rcases ih (q := s.seizedQueue d (x d) q) mem with first | later
    · rcases mem_seizedQueue first with old | ⟨device, takes⟩
      · exact .inl old
      · exact .inr (by rw [device]; exact takes)
    · exact .inr later

/-- An entry of a device that is not taken stays. -/
theorem seizedQueue_keeps {s : State} {d : DevId} {x : Device} {q : List Injection} {e : Injection} (mem : e ∈ q)
    (kept : s.seizable d x = false ∨ e.device ≠ d) : e ∈ s.seizedQueue d x q := by
  unfold State.seizedQueue
  split
  · next both =>
    rcases kept with not | other
    · rw [not] at both
      cases both
    · exact mem_joinInjection_other mem other
  · exact mem

theorem seizedQueues_keeps {s : State} {x : DevId → Device} {ds : List DevId} {q : List Injection} {e : Injection}
    (mem : e ∈ q) (kept : s.seizable e.device (x e.device) = false ∨ e.device ∉ ds) : e ∈ s.seizedQueues x ds q := by
  induction ds generalizing q with
  | nil => exact mem
  | cons d ds ih =>
    refine ih (seizedQueue_keeps mem ?_) (kept.imp_right fun out mem => out (List.mem_cons_of_mem _ mem))
    by_cases is : e.device = d
    · exact .inl (by rw [← is]; exact kept.resolve_right fun out => out (by rw [is]; exact List.mem_cons_self))
    · exact .inr is

/-- The OPEN of a device that is taken and counted closed stands in the queue. -/
theorem seizedQueues_opens {s : State} {x : DevId → Device} {ds : List DevId} {q : List Injection} {d : DevId}
    (nodup : ds.Nodup) (mem : d ∈ ds) (takes : s.seizable d (x d) = true) (closed : s.closedAs d (x d) = true) :
    emergencyOpening d (x d) ∈ s.seizedQueues x ds q := by
  induction ds generalizing q with
  | nil => cases mem
  | cons e ds ih =>
    obtain ⟨fresh, nodup⟩ := List.nodup_cons.1 nodup
    rcases List.mem_cons.1 mem with is | later
    · subst is
      refine seizedQueues_keeps (q := s.seizedQueue d (x d) q) ?_ (.inr fresh)
      unfold State.seizedQueue
      rw [takes, closed]
      exact mem_joinInjection_self _ _
    · exact ih nodup later

/-! ## The working copy replaced (R16, R17) -/

theorem keeps_iff (x y : DeviceEntry) : x.keeps y = true ↔ x.sameRecord y := by
  unfold DeviceEntry.keeps DeviceEntry.sameRecord
  simp only [Bool.and_eq_true, beq_iff_eq, and_assoc]

theorem setCommit_shape (s : State) (status : CommitStatus) (reject : Option Nat) :
    ∃ D, (∀ off ∈ s.dirty, off ∈ D) ∧ (s.store.status ≠ status ∨ s.store.reject ≠ reject → 0x200 ∈ D ∧ 0x201 ∈ D) ∧
      s.setCommit status reject = { s with store := { s.store with status := status, reject := reject }, dirty := D } := by
  unfold State.setCommit
  split
  · next same =>
    obtain ⟨first, second⟩ := same
    refine ⟨s.dirty, fun _ mem => mem, fun differs => ?_, by rw [← first, ← second]⟩
    exact (differs.elim (fun ne => ne first) fun ne => ne second).elim
  · refine ⟨markList [0x200, 0x201] s.dirty, fun off mem => (mem_markList _ _ _).2 (.inl mem), fun _ => ?_,
      markAll_markList _ _⟩
    exact ⟨(mem_markList _ _ _).2 (.inr (by decide)), (mem_markList _ _ _).2 (.inr (by decide))⟩

/-- The store once the copy m has become the working copy. -/
def ConfigStore.installed (x : ConfigStore) (m : Memory) : ConfigStore :=
  { x with working := some (boardOf m), pendingCopy := none,
           status := if x.status = .pending then .applied else x.status }

/-- The entries of the injection queue whose device keeps its record (R17). -/
def State.keptInjections (s : State) (new : Board) : List Injection :=
  s.injections.filter fun e => (s.entry e.device).sameRecord (new.devices.get e.device)

theorem install_shape (s : State) (m : Memory) :
    ∃ D, (∀ off ∈ s.dirty, off ∈ D) ∧ (s.store.status = .pending → 0x200 ∈ D ∧ 0x201 ∈ D) ∧
      s.install m = { s with
        devices := Sixteen.ofFn (s.recordAt (boardOf m)), injections := s.keptInjections (boardOf m),
        store := s.store.installed m,
        latch := { s.latch with seed := if s.latch.seed = .notApplied then .waiting else s.latch.seed }, dirty := D } := by
  obtain ⟨D₁, marked₁, dropped⟩ := dropInjections_shape s fun e =>
    !(s.board.devices.get e.device).keeps ((boardOf m).devices.get e.device)
  have records : rebuild s.board (boardOf m) s.devices = Sixteen.ofFn (s.recordAt (boardOf m)) := by
    unfold rebuild
    congr 1
    funext d
    unfold State.recordAt
    exact ite_of_iff (keeps_iff _ _) _ _
  have queue : (s.injections.filter fun e =>
      !(!(s.board.devices.get e.device).keeps ((boardOf m).devices.get e.device))) = s.keptInjections (boardOf m) := by
    unfold State.keptInjections
    refine List.filter_congr fun e _ => Bool.eq_iff_iff.2 ?_
    rw [Bool.not_not, keeps_iff, decide_eq_true_iff]
    rfl
  obtain ⟨v, hv⟩ : ∃ v, v = s.copyIn m := ⟨_, rfl⟩
  have shape : v = { s with
      devices := Sixteen.ofFn (s.recordAt (boardOf m)), injections := s.keptInjections (boardOf m),
      store := { s.store with working := some (boardOf m), pendingCopy := none },
      latch := { s.latch with seed := if s.latch.seed = .notApplied then .waiting else s.latch.seed }, dirty := D₁ } := by
    rw [hv]
    unfold State.copyIn
    dsimp only
    rw [dropped, records, queue]
  obtain ⟨D, marked, changes, committed⟩ := setCommit_shape v
    (if s.store.status = .pending then .applied else s.store.status) s.store.reject
  refine ⟨D, fun off mem => marked off (by rw [shape]; exact marked₁ off mem), fun pending => changes (.inl ?_), ?_⟩
  · rw [shape, if_pos pending]
    show s.store.status ≠ .applied
    rw [pending]
    decide
  · unfold State.install
    rw [← hv, committed, shape]
    rfl

/-! ## The latch rules of application (R17) -/

/-- The record of a device once it has been matched with the latch that is set. -/
def State.matchedRecord (s : State) (d : DevId) (x : Device) : Device :=
  if !(s.entry d).emergencyOpen && x.owner == .emergency then { x with owner := .processor } else s.seizedRecord d x

theorem matchLatch_shape (s : State) (d : DevId) :
    ∃ D, (∀ off ∈ s.dirty, off ∈ D) ∧ s.matchLatch d = { s with
      devices := s.devices.set d (s.matchedRecord d (s.device d)),
      injections := s.seizedQueue d (s.device d) s.injections, dirty := D } := by
  unfold State.matchLatch State.matchedRecord
  by_cases leaves : (!(s.entry d).emergencyOpen && (s.device d).owner == .emergency) = true
  · rw [if_pos leaves, if_pos leaves]
    have not : s.seizable d (s.device d) = false := by
      unfold State.seizable
      rw [show (s.entry d).emergencyOpen = false by simpa using (Bool.and_eq_true_iff.1 leaves).1]
      simp
    unfold State.seizedQueue
    rw [not, Bool.false_and]
    exact setOwner_shape s d .processor
  · rw [if_neg leaves, if_neg leaves]
    exact seize_shape s d

theorem foldl_seize_shape (s : State) :
    ∃ D, (∀ off ∈ s.dirty, off ∈ D) ∧ allDevices.foldl State.seize s = { s with
      devices := Sixteen.ofFn fun d => s.seizedRecord d (s.device d),
      injections := s.seizedQueues s.device allDevices s.injections, dirty := D } :=
  foldl_allDevices_shape (g := s.seizedRecord) (h := s.seizedQueue)
    fun V I D d => seize_shape { s with devices := V, injections := I, dirty := D } d

theorem foldl_matchLatch_shape (s : State) :
    ∃ D, (∀ off ∈ s.dirty, off ∈ D) ∧ allDevices.foldl State.matchLatch s = { s with
      devices := Sixteen.ofFn fun d => s.matchedRecord d (s.device d),
      injections := s.seizedQueues s.device allDevices s.injections, dirty := D } :=
  foldl_allDevices_shape (g := s.matchedRecord) (h := s.seizedQueue)
    fun V I D d => matchLatch_shape { s with devices := V, injections := I, dirty := D } d

/-! ## The sections (R18) -/

/-- A section once its withheld set and its borrow tie have been trimmed to the board (R18). -/
def Board.trimmed (new : Board) (b : SecId) (x : Section) : Section :=
  { state := x.state,
    borrow := x.borrow.filter fun t => allDevices.any fun d => (new.devices.get d).kind == .tie t,
    withheld := Sixteen.ofFn fun d => x.withheld.get d && (new.devices.get d).kind == .feeder b }

theorem feederOn_single_eq (s : State) (b : SecId) (d : DevId) :
    s.feederOn (singleSection b) d = (s.kindOf d == .feeder b) :=
  Bool.eq_iff_iff.2 ((feederOn_single s b d).trans beq_iff_eq.symm)

theorem trimSection_eq (s : State) (b : SecId) :
    s.trimSection b = { s with sections := s.sections.set b (s.board.trimmed b (s.section b)) } := by
  have tie : ∀ t, (s.tieAt t).isSome = allDevices.any fun d => s.kindOf d == .tie t := fun t => by
    unfold State.tieAt
    exact Bool.eq_iff_iff.2 (by rw [List.find?_isSome, List.any_eq_true])
  unfold State.trimSection State.setSection Board.trimmed
  dsimp only
  simp only [feederOn_single_eq, tie]
  rfl

theorem foldl_trimSection_shape (s : State) :
    allFours.foldl State.trimSection s = { s with sections := Four.ofFn fun b => s.board.trimmed b (s.section b) } := by
  obtain ⟨S, D, _, sections, trims⟩ := foldl_sections_shape (s := s) (f := State.trimSection) (g := s.board.trimmed)
    (fun S D b => ⟨D, fun _ mem => mem, trimSection_eq { s with sections := S, dirty := D } b⟩)
    (by decide : allFours.Nodup) s.sections s.dirty
  have dirty : (allFours.foldl State.trimSection s).dirty = s.dirty := by
    have step : ∀ (bs : List SecId) (u : State), (bs.foldl State.trimSection u).dirty = u.dirty := by
      intro bs
      induction bs with
      | nil => intro u; rfl
      | cons b bs ih => intro u; exact (ih _).trans rfl
    exact step _ _
  have is : S = Four.ofFn fun b => s.board.trimmed b (s.section b) := Four.ext_get fun b => by
    rw [sections, if_pos (by revert b; decide), Four.get_ofFn]
    rfl
  have trims' : allFours.foldl State.trimSection s = { s with sections := S, dirty := D } := trims
  have same : D = s.dirty := by
    rw [trims'] at dirty
    exact dirty
  rw [trims', same, is]

end Sys2Proof.Machine
end

section
/-! PROOFS. Application as a whole (R16 to R18): the state before the evaluations it makes, and what the evaluations leave
where there is nothing to evaluate. -/

namespace Sys2Proof.Machine

/-- Application up to its evaluations. -/
def State.replaced (s : State) (m : Memory) : State :=
  (allFours.foldl State.trimSection
    (if (s.install m).latch.isSet then allDevices.foldl State.matchLatch (s.install m) else s.install m)).workOutDemands

theorem applyCopy_eq (s : State) (m : Memory) :
    s.applyCopy m =
      (((s.replaced m).evaluate id none
        (allFours.filter fun b => ((s.replaced m).section b).state == .armed)).retestQueue).markAll applicationOffsets := rfl

/-- The state w that application of the copy m has reached before its evaluations. -/
structure Replaced (s : State) (m : Memory) (w : State) : Prop where
  devices : ∀ d, w.device d = s.recordAfter (boardOf m) d
  queued : ∀ e ∈ w.injections, e ∈ s.keptInjections (boardOf m) ∨ s.seizes (boardOf m) e.device
  kept : ∀ e ∈ s.keptInjections (boardOf m), ¬s.seizes (boardOf m) e.device → e ∈ w.injections
  clear : s.latch.isSet = false → w.injections = s.keptInjections (boardOf m)
  opens : ∀ d, s.seizes (boardOf m) d → w.countedClosed d = true →
    ⟨d, .opn, (w.device d).tag + 1, .emergency⟩ ∈ w.injections
  sections : ∀ b, w.section b = (boardOf m).trimmed b (s.section b)
  sources : ∀ n, w.source n = ({ w with sources := s.sources }).demanded n
  store : w.store = s.store.installed m
  latch : w.latch = { s.latch with seed := w.latch.seed }
  dirty : ∀ off ∈ s.dirty, off ∈ w.dirty
  pending : s.store.status = .pending → 0x200 ∈ w.dirty ∧ 0x201 ∈ w.dirty
  shape : w = { s with
    devices := w.devices, injections := w.injections, store := w.store, latch := w.latch, sections := w.sections,
    sources := w.sources, dirty := w.dirty }

section
variable {s x : State} {m : Memory} (store : x.store = s.store.installed m) (devices : ∀ d, x.device d = s.recordAt (boardOf m) d)
include store

theorem board_of_installed : x.board = boardOf m := by
  unfold State.board
  rw [store]
  rfl

include devices

theorem seizable_installed (isSet : s.latch.isSet = true) (d : DevId) :
    x.seizable d (x.device d) = true ↔ s.seizes (boardOf m) d := by
  unfold State.seizable State.seizes
  rw [Bool.and_eq_true, Bool.and_eq_true, hasRecord_iff, devices, bne_iff_ne, State.entry, board_of_installed store]
  exact ⟨fun ⟨⟨kind, opens⟩, owner⟩ => ⟨isSet, kind, opens, owner⟩, fun ⟨_, kind, opens, owner⟩ => ⟨⟨kind, opens⟩, owner⟩⟩

theorem matchedRecord_installed (isSet : s.latch.isSet = true) (d : DevId) :
    x.matchedRecord d (x.device d) = s.recordAfter (boardOf m) d := by
  have takes := seizable_installed store devices isSet d
  have entry : x.entry d = (boardOf m).devices.get d := by rw [State.entry, board_of_installed store]
  unfold State.matchedRecord State.seizedRecord State.recordAfter
  rw [entry, devices] at *
  by_cases seizes : s.seizes (boardOf m) d
  · have ⟨_, _, opens, _⟩ := seizes
    rw [if_neg fun both => ?_, if_pos (takes.2 seizes), if_pos seizes]
    have ⟨calm, _⟩ := Bool.and_eq_true_iff.1 both
    rw [opens] at calm
    cases calm
  · rw [if_neg seizes, if_neg fun is => seizes (takes.1 is)]
    refine ite_of_iff ?_ _ _
    rw [Bool.and_eq_true, Bool.not_eq_true', beq_iff_eq]
    exact ⟨fun both => ⟨isSet, both⟩, fun ⟨_, both⟩ => both⟩

end

theorem recordAfter_clear {s : State} (new : Board) (clear : s.latch.isSet = false) (d : DevId) :
    s.recordAfter new d = s.recordAt new d := by
  unfold State.recordAfter
  rw [if_neg fun seizes => ?_, if_neg fun both => ?_]
  · have ⟨isSet, _⟩ := both
    rw [clear] at isSet
    cases isSet
  · have ⟨isSet, _⟩ := seizes
    rw [clear] at isSet
    cases isSet

theorem recordAfter_stands (s : State) (new : Board) (d : DevId) :
    (s.recordAfter new d).observed = (s.recordAt new d).observed ∧ (s.recordAfter new d).op = (s.recordAt new d).op ∧
      (s.recordAfter new d).tag = (s.recordAt new d).tag := by
  unfold State.recordAfter
  split
  · exact ⟨rfl, rfl, rfl⟩
  · split <;> exact ⟨rfl, rfl, rfl⟩

theorem closedAs_eq (s : State) (d : DevId) : s.closedAs d (s.device d) = s.countedClosed d := rfl

/-- The devices once application has matched them with the latch. -/
theorem matched_shape (s : State) (m : Memory) :
    ∃ I D L, (∀ off ∈ s.dirty, off ∈ D) ∧ (s.store.status = .pending → 0x200 ∈ D ∧ 0x201 ∈ D) ∧
      (∀ e ∈ I, e ∈ s.keptInjections (boardOf m) ∨ s.seizes (boardOf m) e.device) ∧
      (∀ e ∈ s.keptInjections (boardOf m), ¬s.seizes (boardOf m) e.device → e ∈ I) ∧
      (s.latch.isSet = false → I = s.keptInjections (boardOf m)) ∧
      (∀ (w : State) d, w.store = s.store.installed m → w.device d = s.recordAfter (boardOf m) d →
        s.seizes (boardOf m) d → w.countedClosed d = true → ⟨d, .opn, (w.device d).tag + 1, .emergency⟩ ∈ I) ∧
      (if (s.install m).latch.isSet then allDevices.foldl State.matchLatch (s.install m) else s.install m) =
        { s with
          devices := Sixteen.ofFn (s.recordAfter (boardOf m)), injections := I, store := s.store.installed m,
          latch := { s.latch with seed := L }, dirty := D } := by
  obtain ⟨D₁, marked₁, pending₁, installed⟩ := install_shape s m
  obtain ⟨x, hx⟩ : ∃ x, x = s.install m := ⟨_, rfl⟩
  have shape := hx.trans installed
  have store : x.store = s.store.installed m := by rw [shape]
  have devices : ∀ d, x.device d = s.recordAt (boardOf m) d := fun d => by
    rw [shape]
    exact Sixteen.get_ofFn _ d
  have set : x.latch.isSet = s.latch.isSet := by rw [shape]
  rw [← hx]
  cases isSet : s.latch.isSet with
  | false =>
    have none_ : ∀ d, ¬s.seizes (boardOf m) d := fun d seizes => by
      have ⟨set, _⟩ := seizes
      rw [isSet] at set
      cases set
    refine ⟨s.keptInjections (boardOf m), D₁, if s.latch.seed = .notApplied then .waiting else s.latch.seed,
      marked₁, pending₁, fun e mem => .inl mem, fun e mem _ => mem, fun _ => rfl,
      fun w d _ _ seizes => absurd seizes (none_ d), ?_⟩
    rw [set, isSet, if_neg (by decide), shape]
    congr 2
    exact funext fun d => (recordAfter_clear _ isSet d).symm
  | true =>
    have takes := seizable_installed store devices isSet
    obtain ⟨D, marked, matched⟩ := foldl_matchLatch_shape x
    refine ⟨x.seizedQueues x.device allDevices x.injections, D, x.latch.seed,
      fun off mem => marked off (by rw [shape]; exact marked₁ off mem), fun is => ?_, fun e mem => ?_, fun e mem not => ?_,
      fun is => absurd is (by decide), fun w d stored record seizes closed => ?_, ?_⟩
    · obtain ⟨first, second⟩ := pending₁ is
      rw [shape] at marked
      exact ⟨marked _ first, marked _ second⟩
    · refine (mem_seizedQueues mem).imp (fun old => ?_) (takes _).1
      rw [shape] at old
      exact old
    · exact seizedQueues_keeps (by rw [shape]; exact mem) (.inl (Bool.eq_false_iff.2 fun is => not ((takes _).1 is)))
    · have opening := seizedQueues_opens (s := x) (x := x.device) (q := x.injections) nodup_allDevices (mem_allDevices d)
        ((takes d).2 seizes) (by
          have same : w.countedClosed d = x.countedClosed d := by
            obtain ⟨observed, op, _⟩ := recordAfter_stands s (boardOf m) d
            exact countedClosed_congr (stored.trans store.symm) (by rw [record, devices, observed]) (by rw [record, devices, op])
          rw [closedAs_eq, ← same]
          exact closed)
      unfold emergencyOpening at opening
      rw [record, (recordAfter_stands s (boardOf m) d).2.2, ← devices]
      exact opening
    · rw [set, isSet, if_pos rfl, matched]
      simp only [matchedRecord_installed store devices isSet]
      rw [shape]

/-- Application up to its evaluations, whatever it finds. -/
theorem replaced_replaced (s : State) (m : Memory) : Replaced s m (s.replaced m) := by
  obtain ⟨I, D₁, L, marked₁, pending, queued, kept, clear, opens, matched⟩ := matched_shape s m
  obtain ⟨x, hx⟩ : ∃ x : State, x = { s with
    devices := Sixteen.ofFn (s.recordAfter (boardOf m)), injections := I, store := s.store.installed m,
    latch := { s.latch with seed := L }, dirty := D₁ } := ⟨_, rfl⟩
  have board : x.board = boardOf m := board_of_installed (s := s) (by rw [hx])
  have trims := foldl_trimSection_shape x
  rw [board] at trims
  obtain ⟨y, hy⟩ : ∃ y : State, y = { x with
    sections := Four.ofFn fun b => (boardOf m).trimmed b (x.section b) } := ⟨_, rfl⟩
  obtain ⟨D, marked, demands⟩ := workOutDemands_shape y
  have is : s.replaced m = { y with sources := Four.ofFn y.demanded, dirty := D } := by
    unfold State.replaced
    rw [matched, ← hx, trims, ← hy, demands]
  have device : ∀ d, (s.replaced m).device d = s.recordAfter (boardOf m) d := fun d => by
    rw [is, hy, hx]
    exact Sixteen.get_ofFn _ d
  have store : (s.replaced m).store = s.store.installed m := by rw [is, hy, hx]
  have injections : (s.replaced m).injections = I := by rw [is, hy, hx]
  have dirty : ∀ off ∈ D₁, off ∈ (s.replaced m).dirty := fun off mem => by
    rw [is]
    exact marked off (by rw [hy, hx]; exact mem)
  refine ⟨device, by rw [injections]; exact queued, by rw [injections]; exact kept, by rw [injections]; exact clear,
    fun d seizes closed => by rw [injections]; exact opens _ d store (device d) seizes closed, fun b => ?_, fun n => ?_,
    store, by rw [is, hy, hx], fun off mem => dirty off (marked₁ off mem),
    fun status => ⟨dirty _ (pending status).1, dirty _ (pending status).2⟩, ?_⟩
  · rw [is, hy]
    refine (Four.get_ofFn _ b).trans ?_
    rw [hx]
    rfl
  · rw [is]
    refine (Four.get_ofFn _ n).trans ?_
    rw [hy, hx]
    rfl
  · rw [is, hy, hx]

theorem retestQueue_empty {s : State} (empty : s.queue = []) : s.retestQueue = s := by
  unfold State.retestQueue
  rw [empty]
  rfl

/-- Application where no request waits and no section is ARMED: no evaluation finds anything. -/
theorem applyCopy_quiet {s : State} (m : Memory) (empty : s.queue = []) (unarmed : ∀ b, (s.section b).state ≠ .armed) :
    s.applyCopy m = (s.replaced m).markAll applicationOffsets := by
  have replaced := replaced_replaced s m
  have none_ : (allFours.filter fun b => ((s.replaced m).section b).state == .armed) = [] := by
    refine List.filter_eq_nil_iff.2 fun b _ => ?_
    rw [replaced.sections, beq_iff_eq]
    exact unarmed b
  have queue : (s.replaced m).queue = [] := by
    rw [replaced.shape]
    exact empty
  have same : (s.replaced m).evaluate id none [] = s.replaced m := evaluateN_nil id 5 none _
  rw [applyCopy_eq, none_, same, retestQueue_empty queue]

end Sys2Proof.Machine
end

section
/-! PROOFS. COMMIT and RESTART (R15, R16, R106): each a general control write with one bit, so one event (R27). -/

namespace Sys2Proof.Machine

/-- A general control write with its COMMIT bit alone is COMMIT, as one event. -/
theorem exec_commit_granted {s t : State} {a : Access} (granted : s.grantsWrite .p a) (ht : s.granted .p = t)
    (hclass : t.classify a.addr = .control 0x100) (bits : field a.data 0 3 = 1) :
    exec .commit s = .next ((t.storeWord a.addr 0).commit.finish (t.storeWord a.addr 0)) := by
  have commit : flag a.data 0 = true := flag_of_field bits 0 (by decide)
  have restart : flag a.data 1 = false := flag_of_field bits 1 (by decide)
  have clear : flag a.data 2 = false := flag_of_field bits 2 (by decide)
  show execCommit s = _
  unfold execCommit
  rw [grantWrite_granted granted ht, generalWrite_of hclass commit, Option.getD_some, generalControl_eq, commit, restart,
    clear, event_not_due, event_not_due, event_due]

/-- A general control write with its RESTART bit alone is RESTART, as one event. -/
theorem exec_restart_granted {s t : State} {a : Access} (granted : s.grantsWrite .p a) (ht : s.granted .p = t)
    (hclass : t.classify a.addr = .control 0x100) (bits : field a.data 0 3 = 2) :
    exec .restart s = .next ((t.storeWord a.addr 0).restart.finish (t.storeWord a.addr 0)) := by
  have commit : flag a.data 0 = false := flag_of_field bits 0 (by decide)
  have restart : flag a.data 1 = true := flag_of_field bits 1 (by decide)
  have clear : flag a.data 2 = false := flag_of_field bits 2 (by decide)
  show execRestart s = _
  unfold execRestart
  rw [grantWrite_granted granted ht, generalWrite_of hclass restart, Option.getD_some, generalControl_eq, commit, restart,
    clear, event_not_due, event_not_due, event_due]

/-! ## The staged copy (R15) -/

/-- The store once its staged copy has validated: it waits. -/
def ConfigStore.offered (x : ConfigStore) : ConfigStore :=
  { x with pendingCopy := some x.staged, status := .pending, reject := none }

theorem commit_rejected {s : State} {off : Nat} (fails : firstFailure s.store.page s.store.staged = some off) :
    s.commit = (s.setCommit .rejected (some off)).raise { cls := .configRejected, w5 := BitVec.ofNat 16 off } := by
  unfold State.commit
  rw [fails]

/-- The staged copy has validated and waits. -/
def State.offers (s : State) (D : List Nat) : State := { s with store := s.store.offered, dirty := D }

theorem commit_offered {s : State} (valid : firstFailure s.store.page s.store.staged = none) :
    ∃ D, (∀ off ∈ s.dirty, off ∈ D) ∧
      (s.store.status ≠ .pending ∨ s.store.reject ≠ none → 0x200 ∈ D ∧ 0x201 ∈ D) ∧
      s.commit = (s.offers D).afterFreeing := by
  obtain ⟨D, marked, words, shape⟩ :=
    setCommit_shape { s with store := { s.store with pendingCopy := some s.store.staged } } .pending none
  refine ⟨D, marked, words, ?_⟩
  unfold State.commit
  rw [valid]
  dsimp only
  rw [shape]
  rfl

/-! ## Application when a context is freed (R16, R126) -/

/-- The copy keeps waiting while a context is not FREE. -/
theorem afterFreeing_waits {s : State} {m : Memory} (waits : s.store.pendingCopy = some m) (busy : s.allFree = false) :
    s.afterFreeing = s := by
  have same : s.applyIfFree = s := by
    unfold State.applyIfFree
    rw [waits, busy]
    rfl
  unfold State.afterFreeing
  rw [same]
  exact assign_closed (.inl (takingOpen_of_waits (by rw [waits]; rfl)))

theorem afterFreeing_applies {s : State} {m : Memory} (waits : s.store.pendingCopy = some m) (free : s.allFree = true) :
    s.afterFreeing = assign (s.applyCopy m) := by
  unfold State.afterFreeing State.applyIfFree
  rw [waits, free]
  rfl

/-- Where no request waits and no section is ARMED, the application has nothing to evaluate and nothing to assign. -/
theorem afterFreeing_quiet {s : State} {m : Memory} (waits : s.store.pendingCopy = some m) (free : s.allFree = true)
    (empty : s.queue = []) (unarmed : ∀ b, (s.section b).state ≠ .armed) :
    s.afterFreeing = (s.replaced m).markAll applicationOffsets := by
  rw [afterFreeing_applies waits free, applyCopy_quiet m empty unarmed, markAll_markList]
  refine assign_empty _ ?_
  have replaced := replaced_replaced s m
  rw [replaced.shape]
  exact empty

theorem allFree_iff (s : State) : s.allFree = true ↔ ∀ k, (s.context k).state = .free := by
  unfold State.allFree
  simp only [List.all_eq_true, beq_iff_eq]
  exact ⟨fun all k => all k (by revert k; decide), fun all k _ => all k⟩

theorem steady_of_allFree {s : State} (free : s.allFree = true) (settled : s.settled) : s.steady :=
  ⟨settled, fun k both => by
    have is := (allFree_iff s).1 free k
    rw [both.1] at is
    cases is⟩

/-- An event that marks words last. -/
theorem next_markAll {t u : State} (offs : List Nat) (steady : u.steady) :
    ∃ E, (∀ off ∈ u.dirty ++ offs, off ∈ E) ∧
      (Host.Outcome.next ((u.markAll offs).finish t) : Host.Outcome State Fault Refusal) = .next { u with dirty := E } := by
  rw [markAll_markList]
  exact next_finish_steady (steady.of rfl rfl) fun off mem => (mem_markList offs u.dirty off).2 (List.mem_append.1 mem)

/-- COMMIT of a copy that validates over a board whose contexts are all FREE, with no request waiting and no section
ARMED. `w` is what application of the copy has reached. -/
theorem commit_applies {s : State} (valid : firstFailure s.store.page s.store.staged = none) (free : s.allFree = true)
    (settled : s.settled) (empty : s.queue = []) (unarmed : ∀ b, (s.section b).state ≠ .armed) :
    ∃ D w E, Replaced (s.offers D) s.store.staged w ∧ (∀ off ∈ w.dirty ++ applicationOffsets, off ∈ E) ∧
      (Host.Outcome.next (s.commit.finish s) : Host.Outcome State Fault Refusal) = .next { w with dirty := E } := by
  obtain ⟨D, _, _, shape⟩ := commit_offered valid
  have quiet := afterFreeing_quiet (s := s.offers D) (m := s.store.staged) rfl free empty unarmed
  have replaced := replaced_replaced (s.offers D) s.store.staged
  obtain ⟨w, hw⟩ : ∃ w, w = (s.offers D).replaced s.store.staged := ⟨_, rfl⟩
  rw [← hw] at quiet replaced
  have steady : w.steady := by
    refine (steady_of_allFree free settled).of ?_ ?_
    all_goals
      rw [replaced.shape]
      rfl
  obtain ⟨E, marked, ended⟩ := next_markAll (t := s) applicationOffsets steady
  refine ⟨D, w, E, replaced, marked, ?_⟩
  rw [shape, quiet, ended]

theorem entry_unconfigured {s : State} (unconfigured : s.store.working = none) (d : DevId) : (s.entry d).kind = .unused := by
  unfold State.entry State.board
  rw [unconfigured]
  exact congrArg DeviceEntry.kind (Sixteen.get_fill _ d)

theorem code_ne_zero {x : DeviceKind} (used : x ≠ .unused) : x.code ≠ 0 := by
  cases x with
  | unused => exact absurd rfl used
  | incomer => exact Nat.one_ne_zero
  | tie => exact Nat.succ_ne_zero _
  | feeder => exact Nat.succ_ne_zero _

/-- The first application builds every record afresh. -/
theorem recordAt_unconfigured {s : State} {new : Board} {d : DevId} (unconfigured : s.store.working = none)
    (used : (new.devices.get d).kind ≠ .unused) :
    s.recordAt new d =
      { owner := .processor, tag := 0, observed := .unknown, available := false, tripped := false, pending := false,
        op := .idle, overrun := false, fail := false, trip := false, deferred := none } := by
  unfold State.recordAt
  refine if_neg fun same => code_ne_zero used ?_
  obtain ⟨kind, _⟩ := same
  rw [← kind, entry_unconfigured unconfigured]
  rfl

/-- An event that raises a frame last, in an unmarked slot. -/
theorem next_raise_after {t u : State} (i : Incident) (steady : u.steady) (unmarked : u.slotUnmarked) :
    ∃ D, (∀ off ∈ u.dirty ++ u.frameMarks, off ∈ D) ∧
      (Host.Outcome.next ((u.raise i).finish t) : Host.Outcome State Fault Refusal) =
        .next { u with recorder := u.recorded i, dirty := D } := by
  rw [raise_recorded u i unmarked]
  exact next_finish_steady (steady.of rfl rfl) fun off mem => (mem_markList _ _ _).2 (List.mem_append.1 mem)

/-- Settles O24: a staged copy is rejected, waits, or is the first one applied. -/
theorem commitRejectsPendsOrApplies : Obligations.CommitRejectsPendsOrApplies := by
  refine ⟨fun s t a off granted ht hclass bits fails steady unmarked => ?_,
    fun s t a granted ht hclass bits valid steady busy => ?_,
    fun s t a granted ht hclass bits valid unconfigured free clear empty disarmed settled => ?_⟩
  · obtain ⟨D, marked, words, shape⟩ := setCommit_shape (t.storeWord a.addr 0) .rejected (some off)
    obtain ⟨x, hx⟩ : ∃ x, x = (t.storeWord a.addr 0).setCommit .rejected (some off) := ⟨_, rfl⟩
    rw [exec_commit_granted granted ht hclass bits, commit_rejected (s := t.storeWord a.addr 0) fails, ← hx]
    have shape := hx.trans shape
    obtain ⟨E, kept, ended⟩ := next_raise_after (t := t.storeWord a.addr 0) (u := x)
      { cls := .configRejected, w5 := BitVec.ofNat 16 off } (by rw [shape]; exact steady.of rfl rfl)
      (by rw [shape]; exact unmarked)
    rw [ended]
    refine ⟨E, fun off mem => kept off ?_, fun differs => ?_, ?_⟩
    · rw [shape]
      exact (List.mem_append.1 mem).elim (fun old => List.mem_append_left _ (marked off old)) (List.mem_append_right _)
    · obtain ⟨first, second⟩ := words differs
      rw [shape] at kept
      exact ⟨kept _ (List.mem_append_left _ first), kept _ (List.mem_append_left _ second)⟩
    · rw [shape]
      rfl
  · obtain ⟨D, marked, words, shape⟩ := commit_offered (s := t.storeWord a.addr 0) valid
    rw [exec_commit_granted granted ht hclass bits, shape,
      afterFreeing_waits (s := (t.storeWord a.addr 0).offers D) (m := t.store.staged) rfl busy]
    obtain ⟨E, kept, ended⟩ := next_finish_steady (t := t.storeWord a.addr 0)
      (u := (t.storeWord a.addr 0).offers D) (steady.of rfl rfl) fun _ mem => mem
    exact ⟨E, fun x mem => kept x (marked x mem), fun differs => ⟨kept _ (words differs).1, kept _ (words differs).2⟩, ended⟩
  · obtain ⟨D, w, E, replaced, marked, ended⟩ := commit_applies (s := t.storeWord a.addr 0) valid free settled empty
      fun b is => by
        have disarmed : ((t.storeWord a.addr 0).section b).state = .disarmed := disarmed b
        rw [disarmed] at is
        cases is
    have store := replaced.store
    have pending := replaced.pending rfl
    rw [exec_commit_granted granted ht hclass bits]
    refine ⟨_, ended, ?_, ?_, store, marked _ (List.mem_append_left _ pending.1), marked _ (List.mem_append_left _ pending.2),
      fun d used => ?_⟩
    · show w.image = _
      rw [replaced.shape]
      rfl
    · show w.guarding = true
      unfold State.guarding
      rw [store]
      rfl
    · refine (replaced.devices d).trans ?_
      rw [recordAfter_clear (s := (t.storeWord a.addr 0).offers D) _ clear]
      exact recordAt_unconfigured (s := (t.storeWord a.addr 0).offers D) unconfigured used

end Sys2Proof.Machine
end

section
/-! PROOFS. RESTART (R106). -/

namespace Sys2Proof.Machine

theorem restart_guarding {s : State} (guarding : s.guarding = true) :
    s.restart = s.restartBlocks.workOutDemands.afterFreeing.markAll (statusOffsets ++ frameOffsets) := by
  unfold State.restart
  rw [guarding]
  rfl

theorem restart_unconfigured {s : State} (unconfigured : s.guarding = false) :
    s.restart = s.markAll (statusOffsets ++ frameOffsets) := by
  unfold State.restart
  rw [unconfigured]
  rfl

/-- The blocks freed; R are the sources and D the dirty words. -/
def State.restarted (s : State) (R : Four Source) (D : List Nat) : State :=
  { s.restartBlocks with sources := R, dirty := D }

/-- Steps 1 to 5 of R106: the blocks freed, run demand worked out. -/
theorem restarted_shape (s : State) :
    ∃ R D, (∀ off ∈ s.dirty, off ∈ D) ∧
      (∀ n, (R.get n).state = (s.source n).state ∧ (R.get n).health = (s.source n).health ∧
        (R.get n).ride = (s.source n).ride ∧ (R.get n).stab = (s.source n).stab) ∧
      s.restartBlocks.workOutDemands = s.restarted R D := by
  obtain ⟨D, marked, shape⟩ := workOutDemands_shape s.restartBlocks
  refine ⟨Four.ofFn s.restartBlocks.demanded, D, marked, fun n => ?_, shape⟩
  rw [Four.get_ofFn]
  exact demanded_same s.restartBlocks n

theorem blank_of_restartBlocks {s : State} {R : Four Source} {D : List Nat} (k : CtxId) :
    (s.restarted R D).context k = Context.blank :=
  Three.get_fill Context.blank k

theorem allFree_restartBlocks {s : State} {R : Four Source} {D : List Nat} :
    (s.restarted R D).allFree = true :=
  (allFree_iff _).2 fun k => by
    rw [blank_of_restartBlocks]
    rfl

theorem steady_restartBlocks {s : State} {R : Four Source} {D : List Nat} :
    (s.restarted R D).steady := steady_of_allFree allFree_restartBlocks rfl

/-- RESTART where no copy waits. -/
theorem restart_frees {s : State} (guarding : s.guarding = true) (none_ : s.store.pendingCopy = none) :
    ∃ R E, (∀ off ∈ statusOffsets ++ frameOffsets, off ∈ E) ∧
      (∀ n, (R.get n).state = (s.source n).state ∧ (R.get n).health = (s.source n).health ∧
        (R.get n).ride = (s.source n).ride ∧ (R.get n).stab = (s.source n).stab) ∧
      (Host.Outcome.next (s.restart.finish s) : Host.Outcome State Fault Refusal) =
        .next (s.restarted R E) := by
  obtain ⟨R, D, _, kept, shape⟩ := restarted_shape s
  obtain ⟨x, hx⟩ : ∃ x, x = s.restarted R D := ⟨_, rfl⟩
  have steady : x.steady := by
    rw [hx]
    exact steady_restartBlocks
  have freed : x.afterFreeing = x := afterFreeing_nothing x (by rw [hx]; rfl) (by rw [hx]; exact none_)
  obtain ⟨E, marked, ended⟩ := next_markAll (t := s) (statusOffsets ++ frameOffsets) steady
  refine ⟨R, E, fun off mem => marked off (List.mem_append_right _ mem), kept, ?_⟩
  rw [restart_guarding guarding, shape, ← hx, freed, ended, hx]
  rfl

/-- RESTART where a copy waits: it is applied. `w` is what application of the copy has reached. -/
theorem restart_applies {s : State} {m : Memory} (guarding : s.guarding = true) (waits : s.store.pendingCopy = some m) :
    ∃ R D w E, Replaced (s.restarted R D) m w ∧
      (∀ off ∈ statusOffsets ++ frameOffsets, off ∈ E) ∧
      (Host.Outcome.next (s.restart.finish s) : Host.Outcome State Fault Refusal) = .next { w with dirty := E } := by
  obtain ⟨R, D, _, _, shape⟩ := restarted_shape s
  obtain ⟨x, hx⟩ : ∃ x, x = s.restarted R D := ⟨_, rfl⟩
  have quiet : x.afterFreeing = (x.replaced m).markAll applicationOffsets := by
    refine afterFreeing_quiet (by rw [hx]; exact waits) (by rw [hx]; exact allFree_restartBlocks) (by rw [hx]; rfl)
      fun b is => ?_
    have reset : x.section b = Section.reset := by
      rw [hx]
      exact Four.get_fill _ b
    rw [reset] at is
    cases is
  have replaced := replaced_replaced x m
  obtain ⟨w, hw⟩ : ∃ w, w = x.replaced m := ⟨_, rfl⟩
  obtain ⟨y, hy⟩ : ∃ y, y = w.markAll applicationOffsets := ⟨_, rfl⟩
  have applied := hy.trans (markAll_markList w _)
  rw [← hw, ← hy] at quiet
  rw [← hw] at replaced
  have steady : y.steady := by
    refine (steady_restartBlocks (s := s) (R := R) (D := D)).of ?_ ?_
    all_goals
      rw [applied, replaced.shape, hx]
  obtain ⟨E, marked, ended⟩ := next_markAll (t := s) (statusOffsets ++ frameOffsets) steady
  refine ⟨R, D, w, E, by rw [← hx]; exact replaced, fun off mem => marked off (List.mem_append_right _ mem), ?_⟩
  rw [restart_guarding guarding, shape, ← hx, quiet, ended, applied]

/-- A record that application keeps of a freed device, or builds afresh. -/
theorem recordAt_restartBlocks (s : State) (R : Four Source) (D : List Nat) (new : Board) (d : DevId) :
    (s.restarted R D).recordAt new d = freeDevice (s.recordAt new d) := by
  have record : (s.restarted R D).device d = freeDevice (s.device d) :=
    Sixteen.get_ofFn _ d
  unfold State.recordAt
  rw [record, apply_ite freeDevice]
  rfl

theorem freeDevice_eq (x : Device) :
    freeDevice x = match x.owner with
      | .context _ => { x with owner := .processor, deferred := none }
      | _ => x := by
  unfold freeDevice
  cases x.owner <;> rfl

theorem trimmed_reset (new : Board) (b : SecId) : new.trimmed b Section.reset = Section.reset := rfl

/-- Settles O26: RESTART frees the blocks, applies a copy that waits, and while UNCONFIGURED only marks. -/
theorem restartFreesEverything : Obligations.RestartFreesEverything := by
  refine ⟨fun s t a granted ht hclass bits guarding none_ => ?_, fun s t a granted ht hclass bits unconfigured steady => ?_,
    fun s t a m granted ht hclass bits guarding waits clear => ?_⟩
  · obtain ⟨R, E, marked, kept, ended⟩ := restart_frees (s := t.storeWord a.addr 0) guarding none_
    refine ⟨E, R, marked, kept, ?_⟩
    rw [exec_restart_granted granted ht hclass bits, ended]
    unfold State.restarted State.restartBlocks
    simp only [freeDevice_eq]
    rfl
  · rw [exec_restart_granted granted ht hclass bits, restart_unconfigured (s := t.storeWord a.addr 0) unconfigured]
    obtain ⟨E, marked, ended⟩ := next_markAll (t := t.storeWord a.addr 0) (u := t.storeWord a.addr 0)
      (statusOffsets ++ frameOffsets) (steady.of rfl rfl)
    exact ⟨E, fun off mem => marked off (List.mem_append_right _ mem), ended⟩
  · obtain ⟨R, D, w, E, replaced, marked, ended⟩ := restart_applies (s := t.storeWord a.addr 0) guarding waits
    rw [exec_restart_granted granted ht hclass bits]
    refine ⟨_, ended, ?_, replaced.store, fun k => ?_, ?_, ?_, fun b => ?_, ?_, fun d => ?_, ?_, marked⟩
    · show w.image = _
      rw [replaced.shape]
      rfl
    · show w.context k = _
      rw [replaced.shape]
      exact Three.get_fill _ k
    · show w.sync = _
      rw [replaced.shape]
      rfl
    · show w.queue = _
      rw [replaced.shape]
      rfl
    · refine (replaced.sections b).trans ?_
      have reset : ((t.storeWord a.addr 0).restarted R D).section b = Section.reset := Four.get_fill _ b
      rw [reset, trimmed_reset]
      rfl
    · show w.recorder = _
      rw [replaced.shape]
      rfl
    · refine (replaced.devices d).trans ?_
      rw [recordAfter_clear (s := (t.storeWord a.addr 0).restarted R D) _ clear, recordAt_restartBlocks, freeDevice_eq]
      rfl
    · exact replaced.clear clear

end Sys2Proof.Machine
end

section
/-! PROOFS. Application over a GUARDING board (R16 to R18, R96, R100). -/

namespace Sys2Proof.Machine

/-! ## Islands short of supply that hold (R96) -/

/-- The evaluation of one island (R96, R97). -/
def State.evaluateIsland (asg : State → State) (n : Nat) (cause : Option Slot) (s : State) (b : SecId) : State :=
  if s.needsSupply (s.island b) then
    if (FourSet.toList (s.island b)).any s.inHand then s
    else if (FourSet.toList (s.island b)).all s.suppliable then
      s.placeSupply asg (evaluateN asg n none)
        { lead := (s.island b).lowest, set := s.island b, kind := .supply, transition := .opn, target := none, cause := cause,
          offered := 0 }
    else s.holdArmed (FourSet.toList (s.island b))
  else s.evaluateReturn asg b cause

theorem evaluate_eq (asg : State → State) (cause : Option Slot) (bs : List SecId) (s : State) :
    s.evaluate asg cause bs = (s.leadsOf bs).foldl (State.evaluateIsland asg 4 cause) s := rfl

/-- An island that needs supply and holds a section that can enter no request, none being in hand: its ARMED sections become
HELD. -/
theorem evaluateIsland_holds {asg : State → State} {n : Nat} {cause : Option Slot} {s : State} {b : SecId}
    (empty : s.queue = []) (idle : ∀ c, (s.section c).state ≠ .transferring)
    (needs : s.needsSupply (s.island b) = true)
    (stuck : ∃ c, (s.island b).get c = true ∧ (s.section c).state = .disarmed) :
    s.evaluateIsland asg n cause b = s.holdArmed (FourSet.toList (s.island b)) := by
  have unqueued : ∀ c p, s.queuedUnder c p = false := fun c p => by
    unfold State.queuedUnder
    rw [empty]
    simp
  have free : (FourSet.toList (s.island b)).any s.inHand = false := by
    rw [List.any_eq_false]
    intro c _
    unfold State.inHand
    rw [unqueued, Bool.or_false, beq_iff_eq]
    exact idle c
  have short : (FourSet.toList (s.island b)).all s.suppliable = false := by
    obtain ⟨c, mem, disarmed⟩ := stuck
    rw [List.all_eq_false]
    refine ⟨c, (FourSet.mem_toList _ _).2 mem, ?_⟩
    unfold State.suppliable
    rw [unqueued, disarmed]
    exact Bool.false_ne_true
  unfold State.evaluateIsland
  rw [needs, free, short]
  rfl

/-- What a section has become: it was ARMED and is HELD, or it is as it was. -/
def Section.heldFrom (x y : Section) : Prop := y = x ∨ (x.state = .armed ∧ y = { x with state := .held })

theorem holdArmed_shape (s : State) (bs : List SecId) :
    ∃ S D, (∀ off ∈ s.dirty, off ∈ D) ∧ (∀ c, (s.section c).heldFrom (S.get c)) ∧
      (∀ c ∈ bs, (S.get c).state ≠ .armed) ∧ s.holdArmed bs = { s with sections := S, dirty := D } := by
  obtain ⟨S, D, marked, sections, shape⟩ :=
    setSectionStates_shape s (bs.filter fun b => (s.section b).state == .armed) .held
  refine ⟨S, D, marked, fun c => ?_, fun c mem armed => ?_, shape⟩
  · rw [sections]
    split
    · next mem => exact .inr ⟨beq_iff_eq.1 (List.mem_filter.1 mem).2, rfl⟩
    · exact .inl rfl
  · rw [sections] at armed
    split at armed
    · cases armed
    · next out => exact out (List.mem_filter.2 ⟨mem, beq_iff_eq.2 armed⟩)

theorem Section.heldFrom.trans {x y z : Section} (h : x.heldFrom y) (g : y.heldFrom z) : x.heldFrom z := by
  rcases h with same | ⟨armed, held⟩
  · rw [same] at g
    exact g
  · rcases g with same | ⟨again, _⟩
    · rw [same]
      exact .inr ⟨armed, held⟩
    · rw [held] at again
      cases again

theorem Section.heldFrom.not_armed {x y : Section} (h : x.heldFrom y) (not : x.state ≠ .armed) : y = x :=
  h.resolve_right fun ⟨armed, _⟩ => not armed

/-- The evaluation of islands that need supply, each with a DISARMED section, on an empty queue: their ARMED sections become
HELD (R96). -/
theorem evaluate_holds {asg : State → State} {cause : Option Slot} {s : State} {bs : List SecId} (empty : s.queue = [])
    (idle : ∀ c, (s.section c).state ≠ .transferring)
    (stuck : ∀ b ∈ bs, s.needsSupply (s.island b) = true ∧
      ∃ c, (s.island b).get c = true ∧ (s.section c).state = .disarmed) :
    ∃ S D, (∀ off ∈ s.dirty, off ∈ D) ∧ (∀ c, (s.section c).heldFrom (S.get c)) ∧
      (∀ b ∈ bs, (S.get b).state ≠ .armed) ∧ s.evaluate asg cause bs = { s with sections := S, dirty := D } := by
  have folds : ∀ ls : List SecId, (∀ l ∈ ls, ∃ b ∈ bs, (s.island l).get b = true) → ∀ (S : Four Section) (D : List Nat),
      (∀ c, (s.section c).heldFrom (S.get c)) → ∃ S' D', (∀ off ∈ D, off ∈ D') ∧ (∀ c, (S.get c).heldFrom (S'.get c)) ∧
        (∀ l ∈ ls, ∀ c, (s.island l).get c = true → (S'.get c).state ≠ .armed) ∧
        ls.foldl (State.evaluateIsland asg 4 cause) { s with sections := S, dirty := D } =
          { s with sections := S', dirty := D' } := by
    intro ls
    induction ls with
    | nil => exact fun _ S D _ => ⟨S, D, fun _ mem => mem, fun _ => .inl rfl, fun _ mem => (by cases mem), rfl⟩
    | cons l ls ih =>
      intro leads S D held
      obtain ⟨b, mem, holds⟩ := leads l List.mem_cons_self
      obtain ⟨needs, c, inside, disarmed⟩ := stuck b mem
      rw [island_eq_of_mem holds] at needs inside
      have one : State.evaluateIsland asg 4 cause { s with sections := S, dirty := D } l =
          State.holdArmed { s with sections := S, dirty := D } (FourSet.toList (s.island l)) := by
        refine evaluateIsland_holds empty (fun c is => ?_) needs ⟨c, inside, ?_⟩
        · rcases held c with same | ⟨_, become⟩
          · exact idle c (by rw [← same]; exact is)
          · rw [show (State.section { s with sections := S, dirty := D } c) = S.get c from rfl, become] at is
            cases is
        · show (S.get c).state = _
          rw [(held c).not_armed (by rw [disarmed]; decide)]
          exact disarmed
      obtain ⟨S₁, D₁, marked₁, sections₁, done₁, shape₁⟩ :=
        holdArmed_shape { s with sections := S, dirty := D } (FourSet.toList (s.island l))
      obtain ⟨S₂, D₂, marked₂, sections₂, done₂, shape₂⟩ := ih (fun l mem => leads l (List.mem_cons_of_mem _ mem)) S₁ D₁
        fun c => (held c).trans (sections₁ c)
      refine ⟨S₂, D₂, fun off mem => marked₂ off (marked₁ off mem), fun c => (sections₁ c).trans (sections₂ c),
        fun m mem c inside => ?_, ?_⟩
      · rcases List.mem_cons.1 mem with is | later
        · have done := done₁ c ((FourSet.mem_toList _ _).2 (by rw [← is]; exact inside))
          rw [(sections₂ c).not_armed done]
          exact done
        · exact done₂ m later c inside
      · rw [List.foldl_cons, one, shape₁]
        exact shape₂
  have leads : ∀ l ∈ s.leadsOf bs, ∃ b ∈ bs, (s.island l).get b = true := fun l mem => by
    have some_ := (List.mem_filter.1 mem).2
    exact List.any_eq_true.1 some_
  obtain ⟨S, D, marked, sections, done, shape⟩ := folds (s.leadsOf bs) leads s.sections s.dirty fun _ => .inl rfl
  refine ⟨S, D, marked, sections, fun b mem => ?_, (evaluate_eq asg cause bs s).trans shape⟩
  have lead : (s.island b).lowest ∈ s.leadsOf bs :=
    List.mem_filter.2 ⟨lowest_lead s b, List.any_eq_true.2 ⟨b, mem, by rw [island_lowest]; exact mem_island_self s b⟩⟩
  exact done _ lead b (by rw [island_lowest]; exact mem_island_self s b)

end Sys2Proof.Machine
end

section
/-! PROOFS. COMMIT over a GUARDING board, its contexts FREE: the application and the evaluations it makes (R16 to R18). -/

namespace Sys2Proof.Machine

theorem retestQueue_standing (s : State) : s.retestQueue.standing = s.standing := by
  unfold State.retestQueue
  refine fold_standing (fun s e => ?_) _ s
  split
  · split
    · rfl
    · exact failTaking_standing (asg := id) (fun s => .refl s) e _ s
  · rfl

theorem applyCopy_standing (s : State) (m : Memory) : (s.applyCopy m).standing = (s.replaced m).standing := by
  rw [applyCopy_eq]
  exact (Stays.markAll _ _).standing.trans
    ((retestQueue_standing _).trans (Stays.evaluate (asg := id) (fun s => .refl s) _ _ _).standing)

theorem Spares.retestQueue (s : State) : Spares s s.retestQueue := by
  unfold State.retestQueue
  refine .foldl (fun s e => ?_) _ s
  split
  · split
    · exact .refl s
    · exact .failTaking (asg := id) (fun s => .refl s) e _ s
  · exact .refl s

theorem Spares.evaluated (s : State) (m : Memory) : Spares (s.replaced m) (s.applyCopy m) := by
  rw [applyCopy_eq]
  exact ((Spares.evaluate (asg := id) (fun s => .refl s) _ _ _).trans (.retestQueue _)).trans (.markAll _ _)

/-! ## An application that evaluates -/

/-- Islands that need supply hold, on an empty queue (R96). -/
theorem applyCopy_holds {s : State} {m : Memory} (empty : s.queue = [])
    (idle : ∀ c, (s.section c).state ≠ .transferring)
    (stuck : ∀ b, (s.section b).state = .armed → (s.replaced m).needsSupply ((s.replaced m).island b) = true ∧
      ∃ c, ((s.replaced m).island b).get c = true ∧ (s.section c).state = .disarmed) :
    ∃ S D, (∀ c, (S.get c).state = if (s.section c).state = .armed then .held else (s.section c).state) ∧
      s.applyCopy m = { s.replaced m with sections := S, dirty := D } := by
  have replaced := replaced_replaced s m
  rw [applyCopy_eq]
  obtain ⟨w, hw⟩ : ∃ w, w = s.replaced m := ⟨_, rfl⟩
  rw [← hw] at replaced stuck ⊢
  have states : ∀ b, (w.section b).state = (s.section b).state := fun b => by
    rw [replaced.sections]
    rfl
  have queue : w.queue = [] := by
    rw [replaced.shape]
    exact empty
  obtain ⟨S, D, _, sections, done, evaluated⟩ := evaluate_holds (asg := id) (cause := none) (s := w)
    (bs := allFours.filter fun b => (w.section b).state == .armed) queue (fun c => by rw [states]; exact idle c)
    fun b mem => by
      obtain ⟨needs, c, inside, disarmed⟩ := stuck b (by rw [← states]; exact beq_iff_eq.1 (List.mem_filter.1 mem).2)
      exact ⟨needs, c, inside, by rw [states]; exact disarmed⟩
  rw [evaluated, retestQueue_empty (s := { w with sections := S, dirty := D }) queue, markAll_markList]
  refine ⟨S, _, fun c => ?_, rfl⟩
  rcases sections c with same | ⟨armed, held⟩
  · rw [same, states, if_neg fun armed => ?_]
    have every : ∀ c : SecId, c ∈ allFours := by decide
    have out := done c (List.mem_filter.2 ⟨every c, beq_iff_eq.2 (by rw [states]; exact armed)⟩)
    rw [same, states] at out
    exact out armed
  · rw [held, if_pos (by rw [← states]; exact armed)]

/-- A RETURN passes the test of R102 only while its set is FED by an AVAILABLE source. -/
theorem fedAvailable_of_taken {s : State} {e : Request} {x : FourSet} (kind : e.kind = .return)
    (taken : s.takingTest e = .taken x) : s.fedAvailable (s.returnSet e.lead) ≠ none := by
  intro unfed
  have set : s.requestSet e = s.returnSet e.lead := by
    unfold State.requestSet
    rw [kind]
  have gone : s.needGone e (s.returnSet e.lead) = true := by
    unfold State.needGone
    rw [kind, unfed]
  unfold State.takingTest at taken
  rw [set] at taken
  dsimp only at taken
  rw [gone] at taken
  split at taken
  · cases taken
  · cases taken

/-- A queued RETURN that fails the test of R102, no section being locked, leaves the queue, its sections ARMED (R100). -/
theorem retestQueue_withdraws {s : State} {e : Request} (single : s.queue = [e]) (kind : e.kind = .return)
    (unlocked : ∀ b, s.isLocked b = false) (fails : ∀ x, s.takingTest e ≠ .taken x) (nothing : s.nothingToEvaluate) :
    ∃ S D, (∀ c, S.get c = if e.set.get c = true then { s.section c with state := .armed } else s.section c) ∧
      s.retestQueue = { s with sections := S, queue := [], dirty := D } := by
  obtain ⟨D, S, _, sections, removed⟩ := withdraw_shape s e .armed
  have armed : s.withdrawArmed id e = { s with sections := S, queue := [], dirty := D } := by
    unfold State.withdrawArmed
    rw [removed, single]
    have empty : [e].filter (· != e) = [] := by simp
    rw [empty]
    exact evaluate_nothing id _ none _ nothing
  refine ⟨S, D, sections, ?_⟩
  have free : ∀ x, s.anyLocked x = false := fun x => List.any_eq_false.2 fun b _ => by rw [unlocked]; exact Bool.false_ne_true
  have test : s.takingTest e = .ineligible false ∨ s.takingTest e = .needGone := by
    have fails := fails (s.requestSet e)
    unfold State.takingTest at fails ⊢
    dsimp only at fails ⊢
    rw [free] at fails ⊢
    split at fails
    · next out => exact .inl (if_pos out)
    · next inside =>
      rw [if_neg inside]
      split at fails
      · next gone => exact .inr (if_pos gone)
      · exact absurd rfl fails
  have contains : s.queue.contains e = true := by
    rw [single]
    simp
  have one : s.retestQueue = s.failTaking id e (s.takingTest e) := by
    unfold State.retestQueue
    rw [show s.queue.foldl _ s = [e].foldl _ s by rw [single], List.foldl_cons, List.foldl_nil, contains]
    rcases test with is | is
    · rw [is]
      rfl
    · rw [is]
      rfl
  rw [one]
  rcases test with is | is
  · rw [is]
    exact armed
  · rw [is]
    unfold State.failTaking
    rw [kind]
    exact armed

/-! ## The event -/

/-- What COMMIT of a copy that validates leaves where every context is FREE: the application, then assignment. -/
theorem commit_applied {s : State} (valid : firstFailure s.store.page s.store.staged = none) (free : s.allFree = true) :
    ∃ D, s.commit = assign ((s.offers D).applyCopy s.store.staged) := by
  obtain ⟨D, _, _, shape⟩ := commit_offered valid
  exact ⟨D, shape.trans (afterFreeing_applies rfl free)⟩

theorem store_applied (s : State) (m : Memory) : (assign (s.applyCopy m)).store = s.store.installed m := by
  rw [store_of_standing (Stays.assign _).standing, store_of_standing (applyCopy_standing s m)]
  exact (replaced_replaced s m).store

theorem next_applied_standing (before s : State) (m : Memory) :
    ((assign (s.applyCopy m)).finish before).standing = (s.replaced m).standing :=
  (finish_standing before (.inl (by rw [store_applied]; rfl))).trans ((Stays.assign _).standing.trans (applyCopy_standing s m))

theorem next_applied_spares (before s : State) (m : Memory) :
    Spares (s.replaced m) ((assign (s.applyCopy m)).finish before) :=
  ((Spares.evaluated s m).trans (.assign _)).trans (.finish before (.inl (by rw [store_applied]; rfl)))

section
variable {s u : State} (standing : u.standing = s.standing)
include standing

theorem needsSupply_of_standing (b : SecId) : u.needsSupply (u.island b) = s.needsSupply (s.island b) ∧ u.island b = s.island b := by
  have closed : ∀ d, u.countedClosed d = s.countedClosed d := fun d => congrFun (countedClosed_of_standing standing) d
  have island := island_of_closed (store_of_standing standing) closed b
  exact ⟨by rw [island, needsSupply_of_closed (store_of_standing standing) closed (state_of_standing standing)], island⟩

theorem fedAvailable_of_standing (x : FourSet) : u.fedAvailable x = s.fedAvailable x :=
  fedAvailable_of_closed (store_of_standing standing) (fun d => congrFun (countedClosed_of_standing standing) d)
    (state_of_standing standing) x

theorem returnSet_of_standing (borrow : ∀ b, (u.section b).borrow = (s.section b).borrow) (b : SecId) :
    u.returnSet b = s.returnSet b := by
  unfold State.returnSet State.borrowSet
  simp only [borrow, (needsSupply_of_standing standing b).2]

end

/-- Run demand after an application that finds every context FREE (R84 to R86). -/
theorem demand_of_allFree {s : State} {n : SrcId} (free : s.allFree = true) :
    ((s.demanded n).demand = true ↔ (s.sourceEntry n).generator = true ∧ s.incomerClosed n = true) ∧
      ((s.sourceEntry n).generator = false → (s.demanded n).cool = none) := by
  have awaits : s.awaits n = false := by
    unfold State.awaits State.active
    rw [List.any_eq_false]
    intro k _
    rw [(allFree_iff s).1 free k]
    exact Bool.false_ne_true
  rw [demanded_eq, awaits]
  cases (s.sourceEntry n).generator
  · simp
  · cases closed : s.incomerClosed n
    · cases demand : (s.source n).demand <;> simp [demand]
    · simp

/-- Settles O25: application over a GUARDING board. -/
theorem applicationOverAGuardingBoard : Obligations.ApplicationOverAGuardingBoard := by
  intro s t a new granted ht hclass bits valid guarding free settled is
  subst is
  obtain ⟨v, hv⟩ : ∃ v, v = t.storeWord a.addr 0 := ⟨_, rfl⟩
  have row := exec_commit_granted granted ht hclass bits
  rw [← hv] at row
  have valid : firstFailure v.store.page v.store.staged = none := by rw [hv]; exact valid
  have free : v.allFree = true := by rw [hv]; exact free
  have settled : v.settled := by rw [hv]; exact settled
  have staged : v.store.staged = t.store.staged := by rw [hv]; rfl
  refine ⟨fun empty unarmed => ?_, fun empty idle => ?_, fun e single kind unlocked => ?_⟩
  · obtain ⟨D, w, E, replaced, marked, ended⟩ := commit_applies valid free settled (by rw [hv]; exact empty)
      (by rw [hv]; exact unarmed)
    rw [staged] at replaced
    have kept : ∀ e, e ∈ (v.offers D).keptInjections (boardOf t.store.staged) ↔ e ∈ t.injections ∧
        (t.entry e.device).sameRecord ((boardOf t.store.staged).devices.get e.device) := fun e => by
      rw [hv]
      exact List.mem_filter.trans (and_congr_right fun _ => decide_eq_true_iff)
    have seizes : ∀ d, (v.offers D).seizes (boardOf t.store.staged) d ↔ t.seizes (boardOf t.store.staged) d := fun d => by
      rw [hv]
      exact Iff.rfl
    have wfree : ({ w with sources := (v.offers D).sources } : State).allFree = true := by
      rw [replaced.shape]
      exact free
    have pending := replaced.pending rfl
    refine ⟨_, row.trans ended, ?_, ?_, fun d => ?_, fun e mem => ?_, fun e mem same unseized => ?_,
      fun d lost unseized e mem is => ?_, fun d takes closed => ?_, fun b => ?_, fun n => ?_, ?_, ?_, ?_, ?_, ?_, fun _ => ?_,
      fun off mem => marked off (List.mem_append_right _ mem)⟩
    · show w.image = _
      rw [replaced.shape, hv]
      rfl
    · refine replaced.store.trans ?_
      rw [hv]
      rfl
    · refine (replaced.devices d).trans ?_
      rw [hv]
      rfl
    · exact (replaced.queued e mem).imp (fun old => ((kept e).1 old).1) (seizes _).1
    · exact replaced.kept e ((kept e).2 ⟨mem, same⟩) fun takes => unseized ((seizes _).1 takes)
    · rcases replaced.queued e mem with old | takes
      · exact lost (by rw [← is]; exact ((kept e).1 old).2)
      · exact unseized (by rw [← is]; exact (seizes _).1 takes)
    · exact replaced.opens d ((seizes d).2 takes) closed
    · refine (replaced.sections b).trans ?_
      rw [hv]
      rfl
    · obtain ⟨state, health, ride, stab⟩ := demanded_same { w with sources := (v.offers D).sources } n
      obtain ⟨demand, cool⟩ := demand_of_allFree (n := n) wfree
      have board : w.board = boardOf t.store.staged := board_of_installed replaced.store
      have entry : (State.sourceEntry { w with sources := (v.offers D).sources } n) = (boardOf t.store.staged).sources.get n := by
        rw [← board]
        rfl
      rw [← replaced.sources] at state health ride stab demand cool
      rw [entry] at demand cool
      have source : (State.source { w with sources := (v.offers D).sources } n) = t.source n := by rw [hv]; rfl
      rw [source] at state health ride stab
      refine ⟨state, health, ride, stab, demand, fun utility => ⟨cool utility, ?_⟩⟩
      show ((w.board.sources.get n).generator && _) = false
      rw [board, utility]
      rfl
    · show w.contexts = _
      rw [replaced.shape, hv]
      rfl
    · show w.sync = _
      rw [replaced.shape, hv]
      rfl
    · show w.recorder = _
      rw [replaced.shape, hv]
      rfl
    · show w.queue = _
      rw [replaced.shape, hv]
      exact empty
    · show w.latch.isSet = _
      rw [replaced.latch, hv]
      rfl
    · exact ⟨marked _ (List.mem_append_left _ pending.1), marked _ (List.mem_append_left _ pending.2)⟩
  · obtain ⟨D, applied⟩ := commit_applied valid free
    obtain ⟨x, hx⟩ : ∃ x, x = v.offers D := ⟨_, rfl⟩
    rw [applied, staged, ← hx] at row
    have replaced := replaced_replaced x t.store.staged
    have standing := next_applied_standing v x t.store.staged
    refine ⟨_, row, ?_, fun short => ?_⟩
    · rw [store_of_standing standing, replaced.store]
      rfl
    have states : ∀ c, (x.section c).state = (t.section c).state := fun c => by
      rw [hx, hv]
      rfl
    obtain ⟨S, E, sections, holds⟩ := applyCopy_holds (s := x) (m := t.store.staged) (by rw [hx, hv]; exact empty)
      (fun c => by rw [states]; exact idle c) fun b armed => by
        obtain ⟨needs, c, inside, disarmed⟩ := short b (by rw [← states]; exact armed)
        obtain ⟨supply, island⟩ := needsSupply_of_standing standing b
        rw [supply] at needs
        rw [island] at inside
        exact ⟨needs, c, inside, by rw [states]; exact disarmed⟩
    obtain ⟨w, hw⟩ : ∃ w : State, w = { x.replaced t.store.staged with sections := S, dirty := E } := ⟨_, rfl⟩
    rw [← hw] at holds
    have queue : w.queue = [] := by
      rw [hw, replaced.shape, hx, hv]
      exact empty
    have steady : w.steady := by
      refine (steady_of_allFree free settled).of ?_ ?_
      all_goals
        rw [hw, replaced.shape, hx]
        rfl
    obtain ⟨F, _, ended⟩ := finish_shape v steady
    rw [holds, assign_empty w queue, ended]
    refine ⟨queue, fun b => ?_⟩
    rw [← states, ← sections]
    show (w.section b).state = _
    rw [hw]
    rfl
  · obtain ⟨D, applied⟩ := commit_applied valid free
    obtain ⟨x, hx⟩ : ∃ x, x = v.offers D := ⟨_, rfl⟩
    rw [applied, staged, ← hx] at row
    have replaced := replaced_replaced x t.store.staged
    have standing := next_applied_standing v x t.store.staged
    have spares := next_applied_spares v x t.store.staged
    refine ⟨_, row, ?_, fun unfed nothing => ?_⟩
    · rw [store_of_standing standing, replaced.store]
      rfl
    obtain ⟨y, hy⟩ : ∃ y, y = x.replaced t.store.staged := ⟨_, rfl⟩
    have copied := applyCopy_eq x t.store.staged
    rw [← hy] at standing spares replaced copied
    rw [fedAvailable_of_standing standing, returnSet_of_standing standing spares.borrow] at unfed
    have nothing := nothingToEvaluate_of_standing standing nothing
    obtain ⟨S, E, sections, withdrawn⟩ := retestQueue_withdraws (s := y) (e := e)
      (by rw [replaced.shape, hx, hv]; exact single) kind
      (fun b => by rw [replaced.shape, hx, hv]; exact unlocked b)
      (fun z taken => fedAvailable_of_taken kind taken unfed) nothing
    rw [evaluate_nothing _ _ _ _ nothing, withdrawn, markAll_markList] at copied
    obtain ⟨w, hw⟩ : ∃ w, w = x.applyCopy t.store.staged := ⟨_, rfl⟩
    rw [← hw] at copied ⊢
    have steady : w.steady := by
      refine (steady_of_allFree free settled).of ?_ ?_
      all_goals
        rw [copied, replaced.shape, hx]
        rfl
    have queue : w.queue = [] := by rw [copied]
    obtain ⟨F, _, ended⟩ := finish_shape v steady
    rw [assign_empty w queue, ended]
    refine ⟨queue, ?_, fun b => ?_⟩
    · show w.contexts = _
      rw [copied, replaced.shape, hx, hv]
      rfl
    · show (w.section b).state = _
      rw [copied]
      show (S.get b).state = _
      rw [sections, apply_ite Section.state, replaced.sections, hx, hv]
      rfl

end Sys2Proof.Machine
end

section
/-! PROOFS. A general control write with several bits (R27): its accesses offered one after another. -/

namespace Sys2Proof.Machine

/-! ## A write of zero made twice (R23) -/

/-- A word that is zero already is as it was once zero has been written. -/
theorem Memory.write_zero {m : Memory} {a : Nat} (wf : m.wf = true) (zero : m.read a = 0) : m.write a 0 = m := by
  induction m with
  | nil => rfl
  | cons p rest ih =>
    obtain ⟨b, x⟩ := p
    obtain ⟨nonzero, above, rest_wf⟩ := (Memory.wf_cons b x rest).1 wf
    unfold Memory.write
    split
    · rfl
    · split
      · next same =>
        unfold Memory.read at zero
        rw [if_pos same] at zero
        exact absurd zero nonzero
      · next apart =>
        unfold Memory.read at zero
        rw [if_neg apart] at zero
        rw [ih rest_wf zero]

/-! ## A write on the P-port offered with other data -/

section
variable {s : State} {a : Access} (holds : s.pPort.access = some a) (write : a.dir = .write) (w : Word)
include holds

theorem nextPort_offering : (s.offering a w).nextPort = s.nextPort := by
  have waits : (s.offering a w).waiting = s.waiting := funext fun r => by
    cases r with
    | p =>
      show true = s.pPort.access.isSome
      rw [holds]
      rfl
    | f => rfl
    | w => rfl
  unfold State.nextPort State.nextGrant
  rw [waits]
  rfl

include write

/-- A plain read carried ahead leaves the write on the P-port, whatever its data. -/
theorem serveRead_offering : (s.offering a w).serveRead = s.serveRead.offering a w ∧ s.serveRead.pPort = s.pPort := by
  have stays : ∀ b : Access, b.dir = .write → s.plainRead .p b = false ∧ (s.offering a w).plainRead .p b = false :=
    fun b is => by
      unfold State.plainRead
      rw [is]
      exact ⟨rfl, rfl⟩
  unfold State.serveRead
  rw [nextPort_offering holds w]
  cases next : s.nextPort with
  | none => exact ⟨rfl, rfl⟩
  | some q =>
    cases q with
    | p =>
      have own : (s.port .p).access = some a := holds
      have offered : ((s.offering a w).port .p).access = some { a with data := w } := rfl
      dsimp only
      rw [own, offered]
      dsimp only
      rw [(stays a write).1, (stays { a with data := w } write).2]
      exact ⟨rfl, rfl⟩
    | f =>
      have same : ((s.offering a w).port .f).access = (s.port .f).access := rfl
      dsimp only
      rw [same]
      cases access : (s.port .f).access with
      | none => exact ⟨rfl, rfl⟩
      | some b =>
        have plain : (s.offering a w).plainRead .f b = s.plainRead .f b := rfl
        dsimp only
        rw [plain]
        cases s.plainRead .f b with
        | true => exact ⟨rfl, rfl⟩
        | false => exact ⟨rfl, rfl⟩

end

/-- The access that a port holds at its grant was there before the plain reads ahead. -/
theorem holds_of_serveRead {s : State} {a : Access} (holds : s.serveRead.pPort.access = some a) :
    s.pPort.access = some a := by
  unfold State.serveRead at holds
  split at holds
  · next q _ =>
    split at holds
    · split at holds
      · cases q with
        | p => cases holds
        | f => exact holds
      · exact holds
    · exact holds
  · exact holds

/-- The grant of the write on the P-port, whatever its data. -/
theorem granted_offering {s : State} {a : Access} (granted : s.grantsWrite .p a) (w : Word) :
    (s.offering a w).grantsWrite .p { a with data := w } ∧ (s.offering a w).granted .p = s.granted .p := by
  obtain ⟨next, access, write⟩ := granted
  have second : s.serveRead.pPort.access = some a := holds_of_serveRead access
  have first : s.pPort.access = some a := holds_of_serveRead second
  have served : (s.offering a w).serveReads = s.serveReads.offering a w := by
    unfold State.serveReads
    rw [(serveRead_offering first write w).1, (serveRead_offering second write w).1]
  refine ⟨⟨?_, ?_, write⟩, ?_⟩
  · rw [served, nextPort_offering (s := s.serveReads) access w]
    exact next
  · rw [served]
    rfl
  · unfold State.granted
    rw [served]
    rfl

/-- A write offered anew on the P-port just after the Write-back Unit's turn is granted at once. -/
theorem granted_anew {u : State} {a : Access} (write : a.dir = .write) (empty : u.pPort.access = none)
    (last : u.lastGranted = .p) (w : Word) :
    ({ u.offering a w with lastGranted := .w } : State).grantsWrite .p { a with data := w } ∧
      ({ u.offering a w with lastGranted := .w } : State).granted .p = u := by
  obtain ⟨y, hy⟩ : ∃ y : State, y = { u.offering a w with lastGranted := .w } := ⟨_, rfl⟩
  have next : y.nextPort = some .p := by rw [hy]; rfl
  have access : (y.port .p).access = some { a with data := w } := by rw [hy]; rfl
  have stays : y.serveRead = y := by
    unfold State.serveRead
    rw [next]
    dsimp only
    rw [access]
    dsimp only
    unfold State.plainRead
    rw [write]
    rfl
  have served : y.serveReads = y := by
    unfold State.serveReads
    rw [stays, stays]
  rw [← hy]
  refine ⟨⟨by rw [served]; exact next, by rw [served]; exact access, write⟩, ?_⟩
  unfold State.granted
  rw [served, hy]
  cases u with
  | mk pPort =>
    cases pPort
    cases empty
    cases last
    rfl

/-! ## The rows of a general control write -/

/-- The row that carries general control writes whose bit i is one (log 8). -/
def CarriesBit (c : Instr) (i : Nat) : Prop := ∀ s, exec c s = .next (s.grantWrite .p (generalWrite i))

theorem exec_carries {c : Instr} {i : Nat} (row : CarriesBit c i) {s t : State} {a : Access} (granted : s.grantsWrite .p a)
    (ht : s.granted .p = t) (hclass : t.classify a.addr = .control 0x100) (bit : flag a.data i = true) :
    exec c s = .next ((t.storeWord a.addr 0).generalControl a.data) := by
  rw [row, grantWrite_granted granted ht, generalWrite_of hclass bit, Option.getD_some]

theorem classify_page {s u : State} {a : Word} {off : Nat} (page : u.store.page = s.store.page)
    (hclass : s.classify a = .control off) : u.classify a = .control off := by
  unfold State.classify at hclass ⊢
  rw [page]
  split at hclass
  · next inside => exact (if_pos inside).trans hclass
  · split at hclass
    · cases hclass
    · split at hclass
      · cases hclass
      · cases hclass

/-- Two general control writes, the second offered anew once the first is carried, do what the one word does that has the
bits of both. -/
theorem generalControl_split {s u : State} {a : Access} {first next : Instr} {i j : Nat} {v w : Word}
    (carries : CarriesBit first i) (carriesNext : CarriesBit next j) (canonical : s.canonical) (granted : s.grantsWrite .p a)
    (hclass : (s.granted .p).classify a.addr = .control 0x100) (bit : flag a.data i = true) (bitNext : flag a.data j = true)
    (alone : flag v i = true) (rest : flag w j = true)
    (both : ∀ x : State, (x.generalControl v).generalControl w = x.generalControl a.data)
    (does : exec first (s.offering a v) = .next u) :
    exec first s = exec next { u.offering a w with lastGranted := .w } ∧ exec next s = exec first s := by
  have ⟨offered, same⟩ := granted_offering granted v
  have one := exec_carries carries offered same hclass alone
  obtain ⟨x, hx⟩ : ∃ x, x = (s.granted .p).storeWord a.addr 0 := ⟨_, rfl⟩
  have is : u = x.generalControl v := by
    rw [does] at one
    rw [hx]
    exact Host.Outcome.next.inj one
  have inside := Inside.generalControl x v
  rw [← is] at inside
  have ⟨_, _, write⟩ := granted
  obtain ⟨anew, back⟩ := granted_anew (u := u) (a := a) write (by rw [inside.pPort, hx]; rfl)
    (by rw [inside.lastGranted, hx]; rfl) w
  have class_ : u.classify a.addr = .control 0x100 :=
    classify_page (s := s.granted .p) (by rw [inside.page, hx]; rfl) hclass
  have wf : (s.granted .p).image.wf = true := by
    obtain ⟨p, f, l, shape⟩ := portsOnly_granted s .p
    rw [shape]
    exact canonical.1
  have stored : u.storeWord a.addr 0 = u := by
    have zero : u.image.write a.addr.toNat 0 = u.image := by
      rw [inside.image, hx]
      refine Memory.write_zero (Memory.wf_write _ _ _ wf) ?_
      exact (Memory.read_write _ _ _ _ wf).trans (if_pos rfl)
    unfold State.storeWord
    rw [zero]
  rw [exec_carries carries granted rfl hclass bit, exec_carries carriesNext granted rfl hclass bitNext,
    exec_carries carriesNext anew back class_ rest, stored, is, ← hx]
  exact ⟨congrArg _ (both x).symm, rfl⟩

theorem generalControl_commit_first {a : Word} (commit : flag a 0 = true) (x : State) :
    (x.generalControl 1).generalControl (a &&& 6) = x.generalControl a := by
  have restart : flag (a &&& 6) 1 = flag a 1 := by
    unfold flag
    rw [BitVec.getLsbD_and, show (6 : Word).getLsbD 1 = true from rfl, Bool.and_true]
  have clear : flag (a &&& 6) 2 = flag a 2 := by
    unfold flag
    rw [BitVec.getLsbD_and, show (6 : Word).getLsbD 2 = true from rfl, Bool.and_true]
  have none_ : flag (a &&& 6) 0 = false := by
    unfold flag
    rw [BitVec.getLsbD_and, show (6 : Word).getLsbD 0 = false from rfl, Bool.and_false]
  rw [generalControl_eq, generalControl_eq x, generalControl_eq x, restart, clear, none_, commit,
    show flag (1 : Word) 0 = true from rfl, show flag (1 : Word) 1 = false from rfl, show flag (1 : Word) 2 = false from rfl]
  simp only [event_not_due]

theorem generalControl_restart_first {a : Word} (bits : field a 0 3 = 6) (x : State) :
    (x.generalControl 2).generalControl 4 = x.generalControl a := by
  have commit : flag a 0 = false := flag_of_field bits 0 (by decide)
  have restart : flag a 1 = true := flag_of_field bits 1 (by decide)
  have clear : flag a 2 = true := flag_of_field bits 2 (by decide)
  rw [generalControl_eq, generalControl_eq x, generalControl_eq x, commit, restart, clear,
    show flag (2 : Word) 0 = false from rfl, show flag (2 : Word) 1 = true from rfl, show flag (2 : Word) 2 = false from rfl,
    show flag (4 : Word) 0 = false from rfl, show flag (4 : Word) 1 = false from rfl, show flag (4 : Word) 2 = true from rfl]
  simp only [event_not_due]

/-- Settles O28: the bits of a general control write act in order, as separate accesses would. -/
theorem generalControlBitsActInOrder : Obligations.GeneralControlBitsActInOrder := by
  have commits : CarriesBit .commit 0 := fun _ => rfl
  have restarts : CarriesBit .restart 1 := fun _ => rfl
  have clears : CarriesBit .eopClear 2 := fun _ => rfl
  intro s u a first next v w inv granted hclass split does
  have canonical := inv.sound.canonical
  rcases split with ⟨rfl, commit, rfl, rfl, ⟨rfl, restart⟩ | ⟨rfl, clear⟩⟩ | ⟨rfl, bits, rfl, rfl, rfl⟩
  · have rest : flag (a.data &&& 6) 1 = true := by
      unfold flag
      rw [BitVec.getLsbD_and, restart]
      rfl
    exact generalControl_split commits restarts canonical granted hclass commit restart rfl rest
      (generalControl_commit_first commit) does
  · have rest : flag (a.data &&& 6) 2 = true := by
      unfold flag
      rw [BitVec.getLsbD_and, clear]
      rfl
    exact generalControl_split commits clears canonical granted hclass commit clear rfl rest
      (generalControl_commit_first commit) does
  · exact generalControl_split restarts clears canonical granted hclass (flag_of_field bits 1 (by decide))
      (flag_of_field bits 2 (by decide)) rfl rfl (generalControl_restart_first bits) does

end Sys2Proof.Machine
end

section
/-! PROOFS. A MANUAL or RETURN that a FREE context takes (R50, R101, R102, R109): the capture of its devices, then SELECT
with the fixed target, or SYNC_WAIT. -/

namespace Sys2Proof.Machine

/-! ## Loads (R12) -/

section
variable {s u : State} (store : u.store = s.store) (closed : ∀ d, u.countedClosed d = s.countedClosed d)
include store closed

theorem setLoad_of_closed (x : FourSet) : u.setLoad x = s.setLoad x := by
  have closed : u.countedClosed = s.countedClosed := funext closed
  unfold State.setLoad
  rw [closed]
  cases s; cases u; cases store; rfl

theorem shedLoad_of_closed (x : FourSet) : u.shedLoad x = s.shedLoad x := by
  have closed : u.countedClosed = s.countedClosed := funext closed
  unfold State.shedLoad
  rw [closed]
  cases s; cases u; cases store; rfl

theorem fits_of_closed (n : SrcId) (load : Nat) : u.fits n load = s.fits n load := by
  have island : u.island = s.island := funext (island_of_closed store closed)
  have load_ : u.setLoad = s.setLoad := funext (setLoad_of_closed store closed)
  have supply : u.supply = s.supply := funext fun b => by
    rw [State.supply, State.supply, island, supplyOf_of_closed store closed]
  have entry : u.sourceEntry n = s.sourceEntry n := by rw [State.sourceEntry, State.sourceEntry, State.board, State.board, store]
  unfold State.fits State.spare State.loadInUse State.fedIslands State.islandLeads
  rw [island, load_, supply, entry]

end

/-! ## Capture (R50) -/

/-- A context that starts on the entry e captures the device d, of record x. -/
def State.capturesAs (s : State) (e : Request) (d : DevId) (x : Device) : Bool :=
  s.hasRecord d && (s.connects d e.set || s.borrowedTie e == some d) && x.owner == .processor

/-- The record x of the device d after the capture by context k. -/
def State.capturedRecord (s : State) (k : CtxId) (e : Request) (d : DevId) (x : Device) : Device :=
  if s.capturesAs e d x = true then { x with owner := .context k } else x

/-- The injection queue q after the capture of the device d, of record x, by context k. -/
def State.uncommanded (s : State) (k : CtxId) (e : Request) (d : DevId) (x : Device) (q : List Injection) : List Injection :=
  if s.capturesAs e d x = true then q.filter fun y => !(y.device == d && y.code == .cls && y.owner == .context k) else q

theorem capture_shape {s : State} {k : CtxId} {e : Request} (set : (s.context k).set = e.set)
    (oldTie : (s.context k).oldTie = s.borrowedTie e) (V : Sixteen Device) (I : List Injection) (D : List Nat) (d : DevId) :
    ∃ D', (∀ off ∈ D, off ∈ D') ∧
      State.capture k { s with devices := V, injections := I, dirty := D } d =
        { s with
          devices := V.set d (s.capturedRecord k e d (V.get d)), injections := s.uncommanded k e d (V.get d) I,
          dirty := D' } := by
  obtain ⟨v, hv⟩ : ∃ v : State, v = { s with devices := V, injections := I, dirty := D } := ⟨_, rfl⟩
  have test : (v.hasRecord d && (v.connects d (v.context k).set || (v.context k).oldTie == some d) &&
      (v.device d).owner == .processor) = s.capturesAs e d (V.get d) := by
    unfold State.capturesAs
    rw [hv, ← set, ← oldTie]
    rfl
  rw [← hv]
  unfold State.capture State.capturedRecord State.uncommanded
  dsimp only
  rw [test]
  by_cases captured : s.capturesAs e d (V.get d) = true
  · rw [if_pos captured, if_pos captured, if_pos captured]
    obtain ⟨D₁, marked₁, owned⟩ := setOwner_shape v d (.context k)
    obtain ⟨D₂, marked₂, dropped⟩ := dropInjections_shape (v.setOwner d (.context k)) fun x =>
      x.device == d && x.code == .cls && x.owner == .context k
    rw [owned] at marked₂ dropped
    refine ⟨D₂, fun off mem => marked₂ off (marked₁ off (by rw [hv]; exact mem)), ?_⟩
    rw [owned, dropped, hv]
    rfl
  · rw [if_neg captured, if_neg captured, if_neg captured]
    refine ⟨D, fun _ mem => mem, ?_⟩
    rw [Sixteen.set_get, hv]

/-- The CLOSEs of a list of captured devices leave the queue one device after another. -/
theorem foldl_capturedQueue (p : DevId → Bool) (k : CtxId) (ds : List DevId) (q : List Injection) :
    ds.foldl (fun q d => if p d then q.filter fun x => !(x.device == d && x.code == .cls && x.owner == .context k) else q) q =
      q.filter fun x => !(ds.contains x.device && p x.device && x.code == .cls && x.owner == .context k) := by
  induction ds generalizing q with
  | nil => exact (List.filter_eq_self.2 fun _ _ => rfl).symm
  | cons d ds ih =>
    rw [List.foldl_cons, ih]
    split
    · next captured =>
      rw [List.filter_filter]
      refine List.filter_congr fun x _ => ?_
      by_cases own : x.device = d
      · simp only [own, captured, List.contains_cons, beq_self_eq_true, Bool.true_or, Bool.true_and, Bool.and_true]
        cases ds.contains d <;> simp
      · simp [own]
    · next free =>
      refine List.filter_congr fun x _ => ?_
      by_cases own : x.device = d
      · simp [own, free]
      · simp [own]

theorem captured_shape {s : State} {k : CtxId} {e : Request} (set : (s.context k).set = e.set)
    (oldTie : (s.context k).oldTie = s.borrowedTie e) :
    ∃ D, (∀ off ∈ s.dirty, off ∈ D) ∧ allDevices.foldl (State.capture k) s =
      { s with
        devices := Sixteen.ofFn fun d => s.capturedRecord k e d (s.device d), injections := s.capturedQueue k e, dirty := D } := by
  obtain ⟨D, marked, folded⟩ := foldl_allDevices_shape (g := s.capturedRecord k e) (h := s.uncommanded k e)
    (capture_shape set oldTie)
  refine ⟨D, marked, folded.trans ?_⟩
  have queue : allDevices.foldl (fun q d => s.uncommanded k e d (s.device d) q) s.injections = s.capturedQueue k e := by
    refine (foldl_capturedQueue (s.captures e) k allDevices s.injections).trans (List.filter_congr fun x _ => ?_)
    rw [List.contains_iff_mem.2 (mem_allDevices x.device), Bool.true_and]
  rw [← queue]

end Sys2Proof.Machine
end

section
/-! PROOFS. The start of a context on the only entry of the queue, a MANUAL or a RETURN (R102, R109). -/

namespace Sys2Proof.Machine

/-! ## What the start rests on -/

/-- Two states differ for the start of a context in the states of their sections alone. -/
structure Alike (s u : State) : Prop where
  store : u.store = s.store
  devices : u.devices = s.devices
  injections : u.injections = s.injections
  ms : u.ms = s.ms
  borrow : ∀ b, (u.section b).borrow = (s.section b).borrow
  withheld : ∀ b, (u.section b).withheld = (s.section b).withheld

section
variable {s u : State} (alike : Alike s u)
include alike

theorem Alike.borrowedTie (e : Request) : u.borrowedTie e = s.borrowedTie e := by
  have tieAt : u.tieAt = s.tieAt := by
    have store := alike.store
    cases s; cases u; cases store; rfl
  unfold State.borrowedTie
  rw [alike.borrow, tieAt]

theorem Alike.capturesAs (e : Request) : u.capturesAs e = s.capturesAs e := by
  have tie := alike.borrowedTie e
  have store := alike.store
  unfold State.capturesAs
  rw [tie]
  cases s; cases u; cases store; rfl

theorem Alike.captures (e : Request) (d : DevId) : u.captures e d = s.captures e d := by
  show u.capturesAs e d (u.devices.get d) = s.capturesAs e d (s.devices.get d)
  rw [alike.capturesAs, alike.devices]

theorem Alike.capturedQueue (k : CtxId) (e : Request) : u.capturedQueue k e = s.capturedQueue k e := by
  unfold State.capturedQueue
  rw [alike.injections]
  simp only [alike.captures]

theorem Alike.capturedRecord (k : CtxId) (e : Request) (d : DevId) :
    u.capturedRecord k e d (u.device d) = s.capturedRecord k e d (s.device d) := by
  unfold State.capturedRecord State.device
  rw [alike.capturesAs, alike.devices]

theorem Alike.startsWith (e : Request) : u.startsWith e = s.startsWith e := by
  have oldSources : (u.startsWith e).oldSources = (s.startsWith e).oldSources := by
    have store := alike.store
    have devices := alike.devices
    cases s; cases u; cases store; cases devices; rfl
  have carried : (u.startsWith e).carried = (s.startsWith e).carried := by
    unfold State.startsWith
    simp only [alike.withheld]
  calc u.startsWith e
    _ = { s.startsWith e with
          oldTie := u.borrowedTie e, oldSources := (u.startsWith e).oldSources, carried := (u.startsWith e).carried,
          start := u.ms } := rfl
    _ = s.startsWith e := by
      rw [oldSources, carried, alike.borrowedTie, alike.ms]
      rfl

end

/-! ## The record of a starting context (R109) -/

theorem foldl_union (f : SecId → DevSet) (bs : List SecId) (x : DevSet) (d : DevId) :
    (bs.foldl (fun x b => DevSet.union x (f b)) x).get d = (x.get d || bs.any fun b => (f b).get d) := by
  induction bs generalizing x with
  | nil => simp
  | cons b bs ih =>
    rw [List.foldl_cons, ih]
    unfold DevSet.union
    rw [Sixteen.get_ofFn, List.any_cons, Bool.or_assoc]

theorem startRecord_eq {s : State} {e : Request} (kind : e.kind ≠ .supply) (lead : e.lead = e.set.lowest) :
    s.startRecord e e.set = s.startsWith e := by
  have carried : ((FourSet.toList e.set).foldl (fun x b => DevSet.union x (s.section b).withheld) DevSet.none) =
      Sixteen.ofFn fun d => allFours.any fun b => e.set.get b && (s.section b).withheld.get d :=
    Sixteen.ext_get fun d => by
      rw [foldl_union, Sixteen.get_ofFn, show DevSet.none.get d = false from Sixteen.get_fill _ _, Bool.false_or]
      unfold FourSet.toList
      rw [List.any_filter]
  unfold State.startRecord State.startsWith State.borrowedTie
  dsimp only
  rw [if_neg kind, carried, lead] <;> rfl

/-- The state in which context k has started on the entry e and captured its devices; S are the sections, D the dirty
words. -/
def State.started (s : State) (k : CtxId) (e : Request) (S : Four Section) (D : List Nat) : State :=
  { s with
    queue := [], lastAssigned := k, sections := S, contexts := s.contexts.set k (s.startsWith e),
    devices := Sixteen.ofFn fun d => s.capturedRecord k e d (s.device d), injections := s.capturedQueue k e, dirty := D }

/-- The first phase of a context by its transition (R109). -/
def firstPhase (asg : State → State) (k : CtxId) : Transition → State → State
  | .opn => enterSelect asg k
  | .closed => enterSyncWait asg k

theorem take_shape {s : State} {k : CtxId} {e : Request} (asg : State → State) (single : s.queue = [e])
    (kind : e.kind ≠ .supply) (lead : e.lead = e.set.lowest) :
    ∃ S D, (∀ off ∈ s.dirty, off ∈ D) ∧
      (∀ b, S.get b = if e.set.get b = true then { s.section b with state := .transferring } else s.section b) ∧
      s.take asg k e e.set = firstPhase asg k e.transition (s.started k e S D) := by
  have empty : (s.queue.filter fun x => x != e && !x.set.within e.set) = [] := by
    rw [single]
    simp
  obtain ⟨D₁, marked₁, left⟩ := setQueue_shape s []
  have inside : e.outside e.set = [] := by
    unfold Request.outside
    refine List.filter_eq_nil_iff.2 fun b mem => ?_
    rw [(FourSet.mem_toList _ _).1 mem]
    exact Bool.false_ne_true
  obtain ⟨S, D₂, marked₂, sections, moved⟩ := setSectionStates_shape
    { s with queue := [], lastAssigned := k, dirty := D₁ } (FourSet.toList e.set) .transferring
  have sections : ∀ b, S.get b =
      if e.set.get b = true then { s.section b with state := .transferring } else s.section b := fun b => by
    rw [sections]
    simp only [FourSet.mem_toList]
    rfl
  obtain ⟨w, hw⟩ : ∃ w : State, w = { s with queue := [], lastAssigned := k, sections := S, dirty := D₂ } := ⟨_, rfl⟩
  have kept : ∀ b, (w.section b).borrow = (s.section b).borrow ∧ (w.section b).withheld = (s.section b).withheld :=
    fun b => by
      have is : w.section b = S.get b := by rw [hw]; rfl
      rw [is, sections]
      split <;> exact ⟨rfl, rfl⟩
  have alike : Alike s w := ⟨by rw [hw], by rw [hw], by rw [hw], by rw [hw], fun b => (kept b).1, fun b => (kept b).2⟩
  obtain ⟨x, hx⟩ : ∃ x, x = w.setContext k (w.startRecord e e.set) := ⟨_, rfl⟩
  have shape : x = { w with contexts := w.contexts.set k (s.startsWith e) } := by
    rw [hx, startRecord_eq kind lead, alike.startsWith]
    rfl
  have xalike : Alike s x := by
    rw [shape]
    exact ⟨alike.store, alike.devices, alike.injections, alike.ms, alike.borrow, alike.withheld⟩
  have context : x.context k = s.startsWith e := by
    rw [shape]
    exact Three.get_set_same _ _ _
  obtain ⟨D, marked, captured⟩ := captured_shape (s := x) (k := k) (e := e) (by rw [context]; rfl)
    (by rw [context, xalike.borrowedTie]; rfl)
  refine ⟨S, D, fun off mem => marked off (by rw [shape, hw]; exact marked₂ off (marked₁ off mem)), sections, ?_⟩
  have started : allDevices.foldl (State.capture k) x = s.started k e S D := by
    rw [captured, xalike.capturedQueue]
    simp only [xalike.capturedRecord]
    rw [shape, hw]
    rfl
  have begins : s.take asg k e e.set = startContext asg k e e.set w := by
    unfold State.take
    dsimp only
    rw [empty, left, inside, hw]
    exact congrArg _ moved
  rw [begins, ← started, hx]
  unfold startContext firstPhase
  cases e.transition <;> rfl

end Sys2Proof.Machine
end

section
/-! PROOFS. A MANUAL taken at once (R101, R102): in open transition into OPENING on its fixed target (R112, R115), in closed
transition into SYNC_WAIT with a claim for the selector (R129, R134). -/

namespace Sys2Proof.Machine

/-! ## The test of R102 -/

/-- What a manual request on a SOURCE route that is not refused has found (R95). -/
theorem manualBad_source {s : State} {x : FourSet} {tr : Transition} {n : SrcId}
    (good : s.manualBad x tr (some (.source n)) = false) :
    s.anyLocked x = false ∧ (∃ d, s.incomerOf n = some d ∧ s.connects d x = true ∧ (s.device d).owner = .processor ∧
      s.usableDevice d = true ∧ s.countedClosed d = false) ∧ s.isAvailable n = true ∧
      (tr = .closed → ∃ f, s.fedAvailable x = some f ∧ f ≠ n) := by
  unfold State.manualBad at good
  simp only [Bool.or_eq_false_iff] at good
  obtain ⟨⟨⟨_, unlocked⟩, route⟩, closed⟩ := good
  refine ⟨unlocked, ?_, ?_, fun is => ?_⟩
  · unfold State.manualRouteBad at route
    dsimp only at route
    split at route
    · cases route
    · next d incomer =>
      simp only [Bool.or_eq_false_iff, Bool.not_eq_false', bne_eq_false_iff_eq] at route
      obtain ⟨⟨⟨⟨connects, owner⟩, usable⟩, closed⟩, _⟩ := route
      exact ⟨d, incomer, connects, owner, usable, closed⟩
  · unfold State.manualRouteBad at route
    dsimp only at route
    split at route
    · cases route
    · rw [Bool.or_eq_false_iff] at route
      have down : (!s.isAvailable n) = false := route.2
      rw [Bool.not_eq_false'] at down
      exact down
  · rw [is] at closed
    unfold State.manualClosedBad at closed
    dsimp only at closed
    split at closed
    · next f fed =>
      refine ⟨f, fed, fun same => ?_⟩
      rw [same] at closed
      simp at closed
    · simp at closed

/-- A MANUAL whose set is as it was recorded, and which is not refused, passes the test of R102. -/
theorem takingTest_manual {s : State} {e : Request} (manual : e.kind = .manual) (set : s.returnSet e.lead = e.set)
    (good : s.manualBad e.set e.transition e.target = false) (unlocked : s.anyLocked e.set = false) :
    s.takingTest e = .taken e.set := by
  have request : s.requestSet e = e.set := by
    unfold State.requestSet
    rw [manual]
    exact set
  have takeable : (FourSet.toList e.set).all (s.takeable e e.set) = true := List.all_eq_true.2 fun b mem => by
    unfold State.takeable
    rw [(FourSet.mem_toList _ _).1 mem]
    rfl
  have need : s.needGone e e.set = false := by
    unfold State.needGone
    rw [manual]
    exact good
  unfold State.takingTest
  dsimp only
  rw [request, unlocked, takeable, need]
  rfl

theorem assign_takes {s : State} {e : Request} {k : CtxId} (single : s.queue = [e]) (opens : s.takingOpen = true)
    (free : s.nextFree = some k) (test : s.takingTest e = .taken e.set) :
    assign s = assignN 31 (s.take (assignN 31) k e e.set) := by
  show assignN (31 + 1) s = _
  rw [assignN, single]
  dsimp only
  rw [opens, free]
  dsimp only
  rw [test]

theorem assignN_empty {s : State} (n : Nat) (empty : s.queue = []) : assignN n s = s := by
  cases n with
  | zero => rfl
  | succ n =>
    rw [assignN, empty]

/-! ## The board as the context that has started finds it -/

section
variable (s : State) (k : CtxId) (e : Request) (S : Four Section) (D : List Nat)

theorem started_device (d : DevId) : (s.started k e S D).device d = s.capturedRecord k e d (s.device d) :=
  Sixteen.get_ofFn _ d

theorem started_context : (s.started k e S D).context k = s.startsWith e := Three.get_set_same _ _ _

theorem capturedRecord_kept (d : DevId) (x : Device) :
    s.capturedRecord k e d x = { x with owner := (s.capturedRecord k e d x).owner } := by
  unfold State.capturedRecord
  split <;> rfl

theorem started_closed (d : DevId) : (s.started k e S D).countedClosed d = s.countedClosed d := by
  refine countedClosed_congr rfl ?_ ?_
  · rw [started_device, capturedRecord_kept]
  · rw [started_device, capturedRecord_kept]

theorem started_usable (d : DevId) : (s.started k e S D).usableDevice d = s.usableDevice d := by
  unfold State.usableDevice
  rw [started_device, capturedRecord_kept]

theorem started_owns {d : DevId} (captures : s.captures e d = true) : (s.started k e S D).owns k d = true := by
  have record : s.hasRecord d = true :=
    (Bool.and_eq_true_iff.1 (Bool.and_eq_true_iff.1 captures).1).1
  unfold State.owns
  rw [started_device, show (s.started k e S D).hasRecord d = s.hasRecord d from rfl, record]
  unfold State.capturedRecord
  rw [show s.capturesAs e d (s.device d) = true from captures]
  simp

end

/-- The incomer of a source that connects to a set is captured for it. -/
theorem captures_incomer {s : State} {e : Request} {n : SrcId} {d : DevId} (incomer : s.incomerOf n = some d)
    (connects : s.connects d e.set = true) (owner : (s.device d).owner = .processor) : s.captures e d = true := by
  have record : s.hasRecord d = true := by
    have source := List.find?_some incomer
    unfold State.incomerSource at source
    unfold State.hasRecord
    split at source
    · next kind => rw [kind]
    · cases source
  unfold State.captures
  rw [record, connects, owner]
  rfl

/-! ## In closed transition (R134) -/

/-- The record of a context that waits for the selector (R129, R134). -/
def Context.claiming (d : Option DevId) (c : Context) : Context :=
  { c with routeDevice := d, phase := .syncWait, claim := .waiting }

theorem enterSyncWait_claims {s : State} {k : CtxId} {n : SrcId} {f : SrcId} {d : DevId} (asg : State → State)
    (target : (s.context k).target = some (.source n)) (left : (s.context k).excluded = [])
    (incomer : s.incomerOf n = some d) (own : s.owns k d = true) (usable : s.usableDevice d = true)
    (opened : s.countedClosed d = false) (available : s.isAvailable n = true)
    (fits : s.fits n (s.setLoad (s.context k).set) = true) (fed : s.fedAvailable (s.context k).set = some f)
    (apart : f ≠ n) :
    enterSyncWait asg k s = { s with
      contexts := s.contexts.set k ((s.context k).claiming (some d)),
      sync := { s.sync with claims := s.sync.claims ++ [k] } } := by
  obtain ⟨v, hv⟩ : ∃ v : State, v = s.updContext k fun c =>
    { c with phase := .syncWait, routeDevice := c.target.bind (s.routeDeviceFor c.set) } := ⟨_, rfl⟩
  have context : v.context k = { s.context k with phase := .syncWait, routeDevice := some d } := by
    have route : (s.context k).target.bind (s.routeDeviceFor (s.context k).set) = some d := by
      rw [target]
      exact incomer
    rw [hv, context_updContext, route]
  have check : v.closedCheck k = true := by
    unfold State.closedCheck
    rw [context]
    dsimp only
    rw [target, left]
    dsimp only
    rw [show v.isAvailable n = s.isAvailable n by rw [hv]; rfl, available,
      show v.fits n (v.setLoad (s.context k).set) = s.fits n (s.setLoad (s.context k).set) by rw [hv]; rfl, fits,
      show v.incomerOf n = s.incomerOf n by rw [hv]; rfl, incomer,
      show v.fedAvailable (s.context k).set = s.fedAvailable (s.context k).set by rw [hv]; rfl, fed]
    dsimp only
    rw [show v.owns k d = s.owns k d by rw [hv]; rfl, own, show v.usableDevice d = s.usableDevice d by rw [hv]; rfl, usable,
      show v.countedClosed d = s.countedClosed d by rw [hv]; rfl, opened]
    simp [apart]
  unfold enterSyncWait
  dsimp only
  rw [← hv, check, if_pos rfl]
  unfold State.updContext State.setContext
  rw [context, hv]
  unfold State.updContext State.setContext
  dsimp only
  rw [Three.set_set]
  rfl

end Sys2Proof.Machine
end

section
/-! PROOFS. What assignment leaves where a FREE context takes the MANUAL that waits alone. -/

namespace Sys2Proof.Machine

/-- A MANUAL alone in the queue, on a SOURCE route, that passes the test of R102 (R95, R102). -/
structure Takeable (s : State) (e : Request) (k : CtxId) (n : SrcId) : Prop where
  single : s.queue = [e]
  manual : e.kind = .manual
  target : e.target = some (.source n)
  lead : e.lead = e.set.lowest
  set : s.returnSet e.lead = e.set
  good : s.manualBad e.set e.transition e.target = false
  opens : s.takingOpen = true
  free : s.nextFree = some k

theorem taken_of {s u : State} {k : CtxId} {e : Request} {S : Four Section} {c : Context} (queue : u.queue = [])
    (last : u.lastAssigned = k) (contexts : u.contexts = s.contexts.set k c)
    (sections : ∀ b, S.get b =
      if e.set.get b = true then { s.section b with state := .transferring } else s.section b)
    (is : u.sections = S) (devices : u.devices = Sixteen.ofFn fun d => s.capturedRecord k e d (s.device d)) :
    s.taken u k e c := by
  refine ⟨queue, last, ?_, fun j other => ?_, fun b => ?_, fun d => ?_⟩
  · unfold State.context
    rw [contexts]
    exact Three.get_set_same _ _ _
  · unfold State.context
    rw [contexts]
    exact Three.get_set_ne _ other _
  · unfold State.section
    rw [is]
    exact sections b
  · unfold State.device
    rw [devices]
    exact Sixteen.get_ofFn _ d

section
variable {s : State} {k : CtxId} {e : Request} {n : SrcId} (takes : Takeable s e k n)
include takes

/-- The context starts. -/
theorem assign_starts :
    ∃ S D, (∀ off ∈ s.dirty, off ∈ D) ∧
      (∀ b, S.get b = if e.set.get b = true then { s.section b with state := .transferring } else s.section b) ∧
      assign s = assignN 31 (firstPhase (assignN 31) k e.transition (s.started k e S D)) := by
  have good := takes.good
  rw [takes.target] at good
  obtain ⟨unlocked, _⟩ := manualBad_source good
  obtain ⟨S, D, marked, sections, started⟩ := take_shape (s := s) (k := k) (e := e) (assignN 31) takes.single
    (by rw [takes.manual]; decide) takes.lead
  refine ⟨S, D, marked, sections, ?_⟩
  rw [assign_takes takes.single takes.opens takes.free (takingTest_manual takes.manual takes.set takes.good unlocked),
    started]

/-- In closed transition it claims the selector (R129, R134). -/
theorem assign_claims (closed : e.transition = .closed) (fits : s.fits n (s.setLoad e.set) = true) :
    ∃ S D, (∀ off ∈ s.dirty, off ∈ D) ∧
      (∀ b, S.get b = if e.set.get b = true then { s.section b with state := .transferring } else s.section b) ∧
      assign s = { s.started k e S D with
        contexts := s.contexts.set k ((s.startsWith e).claiming (s.incomerOf n)),
        sync := { s.sync with claims := s.sync.claims ++ [k] } } := by
  have good := takes.good
  rw [takes.target] at good
  obtain ⟨_, ⟨d, incomer, connects, owner, usable, opened⟩, available, fed⟩ := manualBad_source good
  obtain ⟨f, fed, apart⟩ := fed closed
  obtain ⟨S, D, marked, sections, assigned⟩ := assign_starts takes
  obtain ⟨y, hy⟩ : ∃ y, y = s.started k e S D := ⟨_, rfl⟩
  have ycontext : y.context k = s.startsWith e := by rw [hy, started_context]
  have yclosed : ∀ o, y.countedClosed o = s.countedClosed o := fun o => by rw [hy, started_closed]
  have ystore : y.store = s.store := by rw [hy]; rfl
  have claims := enterSyncWait_claims (s := y) (k := k) (n := n) (f := f) (d := d) (assignN 31)
    (by rw [ycontext]; exact takes.target) (by rw [ycontext]; rfl) (by rw [hy]; exact incomer)
    (by rw [hy, started_owns _ _ _ _ _ (captures_incomer incomer connects owner)]) (by rw [hy, started_usable, usable])
    (by rw [yclosed, opened]) (by rw [hy]; exact available)
    (by rw [ycontext, fits_of_closed ystore yclosed, setLoad_of_closed ystore yclosed]; exact fits)
    (by
      rw [ycontext, fedAvailable_of_closed ystore yclosed fun m => by rw [hy]; rfl]
      exact fed) apart
  rw [closed, ← hy] at assigned
  have empty : y.queue = [] := by rw [hy]; rfl
  refine ⟨S, D, marked, sections, assigned.trans ?_⟩
  unfold firstPhase
  dsimp only
  rw [claims, assignN_empty]
  · rw [ycontext, incomer, hy]
    unfold State.started
    dsimp only
    rw [Three.set_set]
  · exact empty

/-- In open transition it takes its fixed target into OPENING (R112, R115). -/
theorem assign_opens {d : DevId} {x : DevSet} (open_ : e.transition = .opn) (incomer : s.incomerOf n = some d)
    (fits : s.fits n (s.shedLoad e.set) = true) (list : s.opens (s.startsWith e) DevSet.none = x)
    (captured : ∀ o, x.get o = true → s.captures e o = true) (some_ : DevSet.isEmpty x = false) :
    ∃ S D R, (∀ off ∈ s.dirty, off ∈ D) ∧
      (∀ b, S.get b = if e.set.get b = true then { s.section b with state := .transferring } else s.section b) ∧
      assign s = { s.started k e S D with
        contexts := s.contexts.set k (s.openingOn (s.startsWith e) DevSet.none x (.source n) d),
        injections := s.openingQueue k x (s.capturedQueue k e), sources := R } := by
  have good := takes.good
  rw [takes.target] at good
  obtain ⟨_, ⟨d', incomer', connects, owner, usable, opened⟩, available, _⟩ := manualBad_source good
  rw [incomer] at incomer'
  cases incomer'
  obtain ⟨S, D, marked, sections, assigned⟩ := assign_starts takes
  obtain ⟨y, hy⟩ : ∃ y, y = s.started k e S D := ⟨_, rfl⟩
  have ycontext : y.context k = s.startsWith e := by rw [hy, started_context]
  have yclosed : ∀ o, y.countedClosed o = s.countedClosed o := fun o => by rw [hy, started_closed]
  have ystore : y.store = s.store := by rw [hy]; rfl
  have same : y.updContext k Context.selecting = y := by
    show ({ y with contexts := y.contexts.set k (y.context k).selecting } : State) = y
    rw [ycontext, hy]
    unfold State.started
    dsimp only
    rw [Three.set_set]
    rfl
  have usable_ : y.usable k false (.source n) = true := by
    have device : y.routeDeviceFor (s.startsWith e).set (.source n) = some d := by rw [hy]; exact incomer
    unfold State.usable State.usableFor
    rw [ycontext]
    dsimp only
    rw [device, shedLoad_of_closed ystore yclosed]
    dsimp only
    rw [fits_of_closed ystore yclosed, yclosed, opened, hy,
      started_owns _ _ _ _ _ (captures_incomer incomer connects owner), started_usable, usable,
      show (s.started k e S D).isAvailable n = s.isAvailable n from rfl, available]
    exact fits
  have selects : enterSelect (assignN 31) k y = takeRoute (assignN 31) k (.source n) y := by
    rw [enterSelect_fixed (r := .source n) _ (by rw [ycontext]; show e.target.isSome = true; rw [takes.target]; rfl)
      (by rw [ycontext]; exact takes.target), same]
    exact selectFixed_takes _ (by rw [ycontext]; rfl) usable_
  have leaves : (s.startsWith e).leaves d = DevSet.none := Sixteen.ext_get fun o => by
    show (DevSet.none.set d false).get o = _
    rw [Sixteen.get_set, show DevSet.none.get o = false from Sixteen.get_fill _ _]
    exact ite_self _
  obtain ⟨R, D₂, marked₂, _, route⟩ := takeRoute_opens (s := y) (k := k) (c := s.startsWith e) (r := .source n) (d := d)
    (x := x) (assignN 31) ycontext rfl (by rw [hy]; exact incomer)
    (by
      rw [leaves, ← list]
      unfold State.opens
      simp only [yclosed]
      rw [hy]
      rfl)
    (fun o mem => by rw [hy]; exact started_owns _ _ _ _ _ (captured o mem)) some_
  have queue : y.openingQueue k x y.injections = s.openingQueue k x (s.capturedQueue k e) := by
    unfold State.openingQueue
    rw [show y.injections = s.capturedQueue k e by rw [hy]; rfl]
    refine foldl_eq_of_agree _ fun q o _ => ?_
    rw [hy, started_device, capturedRecord_kept]
  rw [open_, ← hy] at assigned
  have empty : y.queue = [] := by rw [hy]; rfl
  refine ⟨S, D₂, R, fun off mem => marked₂ off (by rw [hy]; exact marked off mem), sections, assigned.trans ?_⟩
  unfold firstPhase
  dsimp only
  rw [selects, route, assignN_empty]
  · rw [queue, leaves, hy]
    unfold State.started
    dsimp only
    rw [Three.set_set]
    rfl
  · exact empty

end

end Sys2Proof.Machine
end

section
/-! PROOFS. A manual request that a FREE context takes at once (R95, R99, R101). -/

namespace Sys2Proof.Machine

/-- The state in which a manual request has joined an empty queue, its word stored as zero. -/
def State.requested (t : State) (addr : Word) (e : Request) (S : Four Section) (D : List Nat) : State :=
  { t.storeWord addr 0 with sections := S, queue := [e], dirty := D }

theorem manual_requested {s t : State} {a : Access} {b : SecId} {e : Request} (granted : s.grantsWrite .p a)
    (ht : s.granted .p = t) (hclass : t.classify a.addr = .control (0x104 + b.val)) (go : a.data.getLsbD 0 = true)
    (accepted : t.manualRefused b a.data = false) (entry : t.manualEntry b a.data = e) (empty : t.queue = []) :
    ∃ S D, (∀ c, S.get c = if e.set.get c = true then { t.section c with state := .queued } else t.section c) ∧
      exec .manualRequest s = .next ((assign (t.requested a.addr e S D)).finish t) := by
  obtain ⟨D, S, _, sections, joined⟩ := joined_shape (t.storeWord a.addr 0) e
  refine ⟨S, D, sections, ?_⟩
  rw [exec_manualRequest_granted granted ht hclass, manual_accepted (s := t.storeWord a.addr 0) go accepted]
  unfold State.placeManual
  rw [show (t.storeWord a.addr 0).manualEntry b a.data = e from entry, joined,
    show (t.storeWord a.addr 0).queue = [] from empty]
  rfl

section
variable {t : State} {addr : Word} {e : Request} {S : Four Section} {D : List Nat}
  (sections : ∀ c, S.get c = if e.set.get c = true then { t.section c with state := .queued } else t.section c)
include sections

theorem alike_requested : Alike t (t.requested addr e S D) := by
  have kept : ∀ c, (S.get c).borrow = (t.section c).borrow ∧ (S.get c).withheld = (t.section c).withheld := fun c => by
    rw [sections]
    split <;> exact ⟨rfl, rfl⟩
  exact ⟨rfl, rfl, rfl, rfl, fun c => (kept c).1, fun c => (kept c).2⟩

theorem returnSet_requested (b : SecId) : (t.requested addr e S D).returnSet b = t.returnSet b := by
  have alike := alike_requested (addr := addr) (D := D) sections
  unfold State.returnSet State.borrowSet
  simp only [alike.borrow]
  rfl

theorem sections_taken {R : Four Section}
    (moved : ∀ b, R.get b = if e.set.get b = true then { (t.requested addr e S D).section b with state := .transferring }
      else (t.requested addr e S D).section b) (b : SecId) :
    R.get b = if e.set.get b = true then { t.section b with state := .transferring } else t.section b := by
  have is : (t.requested addr e S D).section b = S.get b := rfl
  rw [moved, is, sections]
  split <;> rfl

theorem records_taken (k : CtxId) :
    (fun d => (t.requested addr e S D).capturedRecord k e d ((t.requested addr e S D).device d)) =
      fun d => t.capturedRecord k e d (t.device d) :=
  funext fun d => (alike_requested sections).capturedRecord k e d

end

/-- Settles O37: a manual request that is taken at once. -/
theorem requestIsTaken : Obligations.RequestIsTaken := by
  intro s t a b e k n d c granted ht hclass go accepted route incomer entry context set empty none_ clear free steady
  subst context
  have same : t.manualEntry b a.data = e := by
    rw [entry]
    unfold State.manualEntry manualRoute
    rw [route, manualTransition_eq]
  obtain ⟨S, D, sections, row⟩ := manual_requested granted ht hclass go accepted same empty
  obtain ⟨v, hv⟩ : ∃ v, v = t.requested a.addr e S D := ⟨_, rfl⟩
  have alike : Alike t v := by rw [hv]; exact alike_requested sections
  have good : t.manualBad e.set e.transition e.target = false := by
    rw [← same]
    exact (Bool.or_eq_false_iff.1 accepted).1
  have takes : Takeable v e k n := by
    refine ⟨by rw [hv]; rfl, by rw [entry], by rw [entry], by rw [entry], ?_, by rw [hv]; exact good, ?_, by rw [hv]; exact free⟩
    · rw [hv, returnSet_requested sections]
      exact set
    · rw [hv]
      show (t.store.pendingCopy.isNone && !t.latch.isSet) = true
      rw [none_, clear]
      rfl
  rw [← hv] at row
  refine ⟨fun x open_ fits list captured some_ => ?_, fun closed fits => ?_⟩
  · have transition : e.transition = .opn := by
      rw [entry]
      exact if_neg (by rw [open_]; exact Bool.false_ne_true)
    obtain ⟨R, E, Q, _, moved, assigned⟩ := assign_opens takes (d := d) (x := x) transition (by rw [hv]; exact incomer)
      (by rw [hv]; exact fits) (by rw [alike.startsWith, ← list, hv]; rfl)
      (fun o mem => by rw [alike.captures]; exact captured o mem) some_
    obtain ⟨y, hy⟩ : ∃ y, y = assign v := ⟨_, rfl⟩
    have shape := hy.trans assigned
    rw [alike.startsWith, alike.capturedQueue] at shape
    rw [← hy] at row
    have contexts : y.contexts = t.contexts.set k (t.openingOn (t.startsWith e) DevSet.none x (.source n) d) := by
      rw [shape, hv]
      rfl
    obtain ⟨F, _, ended⟩ := next_finish_steady (t := t) (u := y) (marks := [])
      (steady_after steady contexts (by rw [shape, hv]; rfl) (by intro phase; cases phase)) (fun _ mem => by cases mem)
    refine ⟨_, row.trans ended, ?_, ?_, ?_, ?_, ?_⟩
    · show y.image = _
      rw [shape, hv]
      rfl
    · refine taken_of ?_ ?_ contexts (sections_taken sections (by rw [← hv]; exact moved)) ?_ ?_
      · show y.queue = _
        rw [shape]
        rfl
      · show y.lastAssigned = _
        rw [shape]
        rfl
      · show y.sections = _
        rw [shape]
        rfl
      · show y.devices = _
        rw [← records_taken (D := D) (addr := a.addr) sections, ← hv, shape]
        rfl
    · show y.injections = _
      rw [shape, hv]
      rfl
    · show y.recorder = _
      rw [shape, hv]
      rfl
    · show y.sync = _
      rw [shape, hv]
      rfl
  · have transition : e.transition = .closed := by
      rw [entry]
      exact if_pos closed
    obtain ⟨R, E, _, moved, assigned⟩ := assign_claims takes transition (by rw [hv]; exact fits)
    obtain ⟨y, hy⟩ : ∃ y, y = assign v := ⟨_, rfl⟩
    have shape := hy.trans assigned
    rw [alike.startsWith] at shape
    rw [← hy] at row
    have contexts : y.contexts = t.contexts.set k ((t.startsWith e).claiming (some d)) := by
      rw [shape, ← incomer, hv]
      rfl
    obtain ⟨F, _, ended⟩ := next_finish_steady (t := t) (u := y) (marks := [])
      (steady_after steady contexts (by rw [shape, hv]; rfl) (by intro phase; cases phase)) (fun _ mem => by cases mem)
    refine ⟨_, row.trans ended, ?_, ?_, ?_, ?_, ?_⟩
    · show y.image = _
      rw [shape, hv]
      rfl
    · refine taken_of ?_ ?_ contexts (sections_taken sections (by rw [← hv]; exact moved)) ?_ ?_
      · show y.queue = _
        rw [shape]
        rfl
      · show y.lastAssigned = _
        rw [shape]
        rfl
      · show y.sections = _
        rw [shape]
        rfl
      · show y.devices = _
        rw [← records_taken (D := D) (addr := a.addr) sections, ← hv, shape]
        rfl
    · show y.injections = _
      rw [← alike.capturedQueue, shape]
      rfl
    · show y.recorder = _
      rw [shape, hv]
      rfl
    · show y.sync = _
      rw [shape, hv]
      rfl

end Sys2Proof.Machine
end

section
/-! PROOFS. A slot that frees the context it marks (R126, R173), and what the freeing allows: a copy that waits is applied
(R16), a request that waits is taken (R101). -/

namespace Sys2Proof.Machine

/-- The state once the context that waits on a slot has become FREE, its mark gone (R126, R173). -/
def State.released (s : State) (k : CtxId) : State :=
  { s with
    contexts := s.contexts.set k Context.blank, recorder := { s.recorder with marks := s.recorder.marks.set k none },
    dirty := markList (contextStatusOffsets k) s.dirty }

/-- The last dirty word of a marked slot stored: the context is freed, and what that allows is done. -/
theorem slotWritten_releases {s : State} {off : Nat} {k : CtxId} (frame : 0x400 ≤ off)
    (waits : s.waitingOn (slotAt off) = some k) (last : ∀ x ∈ slotOffsets (slotAt off), x ∉ s.dirty) :
    s.slotWritten off = (s.released k).afterFreeing := by
  have released : (s.freeContext k).clearMark k = s.released k := by
    unfold State.freeContext
    rw [markAll_markList]
    rfl
  unfold State.slotWritten
  rw [if_neg (by omega), waits]
  dsimp only
  rw [if_neg (by simpa using last), released]

theorem last_storeReport {t : State} {off : Nat} (last : ∀ x ∈ slotOffsets (slotAt off), x ≠ off → x ∉ t.dirty) :
    ∀ x ∈ slotOffsets (slotAt off), x ∉ (t.storeReport off).dirty := fun x slot mem => by
  obtain ⟨mem, other⟩ := List.mem_filter.1 mem
  exact last x slot (bne_iff_ne.1 other) mem

theorem changedOffsets_status {s before : State} {off : Nat} (mem : off ∈ changedOffsets s before) : off < 0x400 := by
  obtain ⟨i, lt, is⟩ := List.mem_map.1 (List.mem_filter.1 mem).1
  have lt := List.mem_range.1 lt
  omega

theorem contextStatusOffsets_low {k : CtxId} {off : Nat} (mem : off ∈ contextStatusOffsets k) : off < 0x400 := by
  have lt := k.isLt
  simp only [contextStatusOffsets, List.mem_cons, List.not_mem_nil, or_false] at mem
  omega

/-- The store of the last dirty word of a marked slot, where the freeing allows nothing more. -/
theorem storeReport_frees {t : State} {off : Nat} {k : CtxId} (steady : t.steady) (frame : 0x400 ≤ off)
    (waits : t.waitingOn (slotAt off) = some k) (last : ∀ x ∈ slotOffsets (slotAt off), x ≠ off → x ∉ t.dirty)
    (empty : t.queue = []) (none_ : t.store.pendingCopy = none) :
    ∃ D, off ∉ D ∧ (∀ x ∈ t.dirty, x ≠ off → x ∈ D) ∧ (∀ x ∈ contextStatusOffsets k, x ∈ D) ∧
      ((t.storeReport off).slotWritten off).finish t =
        { t with
          image := t.image.write (guardAddress t.store.page off).toNat (t.reportImage off),
          contexts := t.contexts.set k Context.blank,
          recorder := { t.recorder with marks := t.recorder.marks.set k none }, dirty := D } := by
  obtain ⟨y, hy⟩ : ∃ y, y = (t.storeReport off).released k := ⟨_, rfl⟩
  have freed : (t.storeReport off).slotWritten off = y := by
    rw [slotWritten_releases (s := t.storeReport off) frame waits (last_storeReport last), hy]
    exact afterFreeing_nothing _ empty none_
  have marks : y.dirty = markList (contextStatusOffsets k) (t.dirty.filter (· != off)) := by rw [hy]; rfl
  have steady : y.steady := steady_blank k steady (by rw [hy]; rfl) (by rw [hy]; rfl)
  have ended : y.finish t = { y with dirty := markList (changedOffsets y t) y.dirty } :=
    (finish_steady y t steady).trans (markAll_markList _ _)
  refine ⟨markList (changedOffsets y t) y.dirty, fun mem => ?_, fun x mem other => ?_, fun x mem => ?_, ?_⟩
  · rcases (mem_markList _ _ _).1 mem with old | changed
    · rw [marks] at old
      rcases (mem_markList _ _ _).1 old with kept | own
      · simp at kept
      · have low := contextStatusOffsets_low own
        omega
    · have low := changedOffsets_status changed
      omega
  · rw [mem_markList, marks, mem_markList]
    exact .inl (.inl (List.mem_filter.2 ⟨mem, bne_iff_ne.2 other⟩))
  · rw [mem_markList, marks, mem_markList]
    exact .inl (.inr mem)
  · rw [freed, ended, hy]
    rfl

/-- The end of an event whose frames have freed contexts, where the freeing allows nothing more. -/
theorem finish_frees {s : State} (before : State) (empty : s.queue = []) (none_ : s.store.pendingCopy = none) :
    s.finish before = ({ s with freed := Three.fill false } : State).finish before := by
  obtain ⟨v, hv⟩ : ∃ v : State, v = { s with freed := Three.fill false } := ⟨_, rfl⟩
  have settled : v.settled := by rw [hv]
  have settles : settleFreed (Config.freeingRounds - 1 + 1) s = v := by
    unfold settleFreed
    split
    · next is =>
      rw [hv, ← is]
    · rw [← hv, afterFreeing_nothing v (by rw [hv]; exact empty) (by rw [hv]; exact none_)]
      exact settleFreed_settled _ _ settled
  rw [← hv]
  unfold State.finish
  rw [settleFreed_settled _ v settled]
  exact congrArg (fun s => (allContexts.foldl State.watchDead s).markChanged before) settles

theorem afterFreeing_assigns {s : State} (none_ : s.store.pendingCopy = none) : s.afterFreeing = assign s := by
  unfold State.afterFreeing State.applyIfFree
  rw [none_]

/-- The freed context is FREE, the others are as they were. -/
theorem allFree_released {s : State} {k : CtxId} (others : ∀ j, j ≠ k → (s.context j).state = .free) :
    (s.released k).allFree = true := by
  refine (allFree_iff _).2 fun j => ?_
  show ((s.contexts.set k Context.blank).get j).state = .free
  rw [Three.get_set]
  split
  · rfl
  · next other => exact others j other

/-- Settles O22: a marked slot frees its context, and what the freeing allows is done. -/
theorem markedSlotFreesItsContext : Obligations.MarkedSlotFreesItsContext := by
  refine ⟨fun s t off offs k granted ht idle marked steady frame waits last empty none_ => ?_,
    fun s t a off k granted ht hclass steady frame waits last empty none_ => ?_,
    fun s t a k granted ht page steady waits empty none_ => ?_,
    fun s t off offs k m granted ht idle marked steady frame waits last empty copy others clear unarmed => ?_,
    fun s t v off offs k j e n f granted ht idle marked steady frame waits last none_ clear single manual closed target lead
      set good fits fed hv free => ?_⟩
  · obtain ⟨D, clean, kept, words, freed⟩ := storeReport_frees steady frame waits last empty none_
    refine ⟨D, clean, kept, words, ?_⟩
    rw [exec_reportWriteBack_granted granted ht idle marked, freed]
  · obtain ⟨D, clean, kept, words, freed⟩ := storeReport_frees steady frame waits last empty none_
    refine ⟨D, clean, kept, words, ?_⟩
    rw [exec_reportWordWrite_granted granted ht hclass (by omega) (by omega), freed, (report_of_classify hclass).1]
  · obtain ⟨y, hy⟩ : ∃ y, y = t.raise (refusedOutright .fieldWrite none originF a) := ⟨_, rfl⟩
    have raised := hy.trans (raise_marked t (refusedOutright .fieldWrite none originF a) k waits)
    have ends := finish_frees (s := y) t (by rw [raised]; exact empty) (by rw [raised]; exact none_)
    obtain ⟨D, kept, ended⟩ := next_finish_steady (t := t) (u := { y with freed := Three.fill false })
      (marks := y.dirty) ⟨rfl, noDeadWait_blank k steady.2 (by rw [raised])⟩ fun _ mem => mem
    refine ⟨D, fun off mem => kept off ?_, ?_⟩
    · rw [raised, mem_markList, mem_markList]
      rcases List.mem_append.1 mem with kept | ofContext
      · exact (List.mem_append.1 kept).imp_left .inl
      · exact .inl (.inr ofContext)
    · rw [exec_fieldWrite_granted granted ht (fieldRefused_page page), ← hy, ends, ended, raised]
      rw [← steady.1]
      rfl
  · obtain ⟨y, hy⟩ : ∃ y, y = (t.storeReport off).released k := ⟨_, rfl⟩
    have free : y.allFree = true := by
      rw [hy]
      exact allFree_released others
    have applied : (t.storeReport off).slotWritten off = (y.replaced m).markAll applicationOffsets := by
      rw [slotWritten_releases (s := t.storeReport off) frame waits (last_storeReport last), ← hy]
      exact afterFreeing_quiet (by rw [hy]; exact copy) free (by rw [hy]; exact empty) (by rw [hy]; exact unarmed)
    have replaced := replaced_replaced y m
    obtain ⟨w, hw⟩ : ∃ w, w = y.replaced m := ⟨_, rfl⟩
    rw [← hw] at applied replaced
    have contexts : w.contexts = t.contexts.set k Context.blank := by
      rw [replaced.shape, hy]
      rfl
    obtain ⟨E, _, ended⟩ := next_markAll (t := t) (u := w) applicationOffsets
      (steady_blank k steady contexts (by rw [replaced.shape, hy]; rfl))
    refine ⟨{ w with dirty := E }, ?_, ?_, ?_, fun i => ?_, ?_, ?_, fun b => ?_⟩
    · rw [exec_reportWriteBack_granted granted ht idle marked, applied, ended]
    · show w.image = _
      rw [replaced.shape, hy]
      rfl
    · show w.contexts.get k = _
      rw [contexts]
      exact Three.get_set_same _ _ _
    · have all := (allFree_iff y).1 free i
      show (w.contexts.get i).state = _
      rw [contexts]
      rw [hy] at all
      exact all
    · show w.recorder = _
      rw [replaced.shape, hy]
      rfl
    · refine replaced.store.trans ?_
      rw [hy]
      rfl
    · refine (congrArg Section.state (replaced.sections b)).trans ?_
      rw [hy]
      rfl
  · obtain ⟨y, hy⟩ : ∃ y, y = (t.storeReport off).released k := ⟨_, rfl⟩
    have takes : Takeable y e j n := by
      refine ⟨by rw [hy]; exact single, manual, target, lead, by rw [hy]; exact set, by rw [hy, closed]; exact good, ?_, ?_⟩
      · rw [hy]
        show (t.store.pendingCopy.isNone && !t.latch.isSet) = true
        rw [none_, clear]
        rfl
      · rw [← free, hv, hy]
        rfl
    obtain ⟨S, D, _, sections, claims⟩ := assign_claims takes closed (by rw [hy]; exact fits)
    obtain ⟨w, hw⟩ : ∃ w, w = assign y := ⟨_, rfl⟩
    have shape := hw.trans claims
    have written : (t.storeReport off).slotWritten off = w := by
      rw [slotWritten_releases (s := t.storeReport off) frame waits (last_storeReport last), ← hy,
        afterFreeing_assigns (by rw [hy]; exact none_), hw]
    have contexts : w.contexts = v.contexts.set j ((t.startsWith e).claiming (t.incomerOf n)) := by
      rw [shape, hv, hy]
      rfl
    have vsteady : v.steady := steady_blank k steady (by rw [hv]) (by rw [hv])
    obtain ⟨E, _, ended⟩ := next_finish_steady (t := t) (u := w) (marks := [])
      (steady_after vsteady contexts (by rw [shape, hv, hy]; rfl) (by intro phase; cases phase)) (fun _ mem => by cases mem)
    refine ⟨{ w with dirty := E }, ?_, ?_, ?_, ?_, ?_⟩
    · rw [exec_reportWriteBack_granted granted ht idle marked, written, ended]
    · show w.image = _
      rw [shape, hy]
      rfl
    · refine taken_of ?_ ?_ contexts (S := S) (fun b => ?_) ?_ ?_
      · show w.queue = _
        rw [shape]
        rfl
      · show w.lastAssigned = _
        rw [shape]
        rfl
      · rw [sections, hv, hy]
        rfl
      · show w.sections = _
        rw [shape]
        rfl
      · show w.devices = _
        rw [shape, hv, hy]
        rfl
    · show w.sync = _
      rw [shape, hy]
      rfl
    · show w.recorder = _
      rw [shape, hy]
      rfl

end Sys2Proof.Machine
end

section
/-! PROOFS. The endings that the Emergency Latch makes (R160, R162), whatever the slots carry: no context becomes ACTIVE, the
selector stays free, EMERGENCY keeps its devices and their OPENs. -/

namespace Sys2Proof.Machine

/-! ## What an ending under the latch keeps -/

structure Cuts (s u : State) : Prop where
  active : ∀ j, u.active j = true → s.active j = true
  sync : s.sync.hold = none → s.sync.claims = [] → u.sync.hold = none ∧ u.sync.claims = []
  emergency : ∀ d, (u.device d).owner = .emergency ↔ (s.device d).owner = .emergency
  opens : ∀ e ∈ s.injections, (s.device e.device).owner = .emergency → e.code = .opn → e ∈ u.injections

theorem Cuts.refl (s : State) : Cuts s s :=
  ⟨fun _ is => is, fun hold claims => ⟨hold, claims⟩, fun _ => Iff.rfl, fun _ mem _ _ => mem⟩

theorem Cuts.trans {s t u : State} (h : Cuts s t) (g : Cuts t u) : Cuts s u := by
  refine ⟨fun j is => h.active j (g.active j is), fun hold claims => ?_, fun d => (g.emergency d).trans (h.emergency d),
    fun e mem owner code => g.opens e (h.opens e mem owner code) ((h.emergency _).2 owner) code⟩
  obtain ⟨hold, claims⟩ := h.sync hold claims
  exact g.sync hold claims

/-- An operation carried out for devices that are not EMERGENCY's. -/
theorem Cuts.foldl {f : State → DevId → State} (h : ∀ s d, (s.device d).owner ≠ .emergency → Cuts s (f s d))
    (ds : List DevId) {s : State} (free : ∀ d ∈ ds, (s.device d).owner ≠ .emergency) : Cuts s (ds.foldl f s) := by
  induction ds generalizing s with
  | nil => exact .refl s
  | cons d ds ih =>
    have first := h s d (free d List.mem_cons_self)
    exact first.trans (ih fun e mem => mt (first.emergency e).1 (free e (List.mem_cons_of_mem _ mem)))

/-- What changes neither the selector, the devices, the injection queue nor a context's state. -/
theorem Cuts.light {s u : State} (active : ∀ j, u.active j = true → s.active j = true)
    (rest : (u.sync, u.devices, u.injections) = (s.sync, s.devices, s.injections)) : Cuts s u := by
  simp only [Prod.mk.injEq] at rest
  obtain ⟨sync, devices, injections⟩ := rest
  refine ⟨active, fun hold claims => ?_, fun d => ?_, fun e mem _ _ => ?_⟩
  · rw [sync]
    exact ⟨hold, claims⟩
  · unfold State.device
    rw [devices]
  · rw [injections]
    exact mem

theorem active_updContext_ite (s : State) (k j : CtxId) (f : Context → Context) :
    (s.updContext k f).active j = if j = k then (f (s.context k)).state == .active else s.active j := by
  unfold State.active State.updContext State.setContext State.context
  dsimp only
  rw [Three.get_set]
  split <;> rfl

theorem Cuts.updContext (s : State) (k : CtxId) (f : Context → Context)
    (states : ∀ c, (f c).state = .active → c.state = .active) : Cuts s (s.updContext k f) := by
  refine .light (fun j is => ?_) rfl
  rw [active_updContext_ite] at is
  split at is
  · next own =>
    subst own
    exact beq_iff_eq.2 (states _ (beq_iff_eq.1 is))
  · exact is

theorem Cuts.raise (s : State) (i : Incident) : Cuts s (s.raise i) := by
  cases waits : s.waitingOn s.recorder.index with
  | none =>
    rw [raise_recorded s i waits]
    exact .light (fun _ is => is) rfl
  | some k =>
    rw [raise_marked s i k waits]
    refine .light (fun j is => ?_) rfl
    have blank : (s.updContext k fun _ => Context.blank).active j = true := is
    rw [active_updContext_ite] at blank
    split at blank
    · cases blank
    · exact blank

/-- A command for a device that is not EMERGENCY's. -/
theorem Cuts.enqueue {s : State} {d : DevId} (code : Cmd) (o : Enqueuer) (free : (s.device d).owner ≠ .emergency) :
    Cuts s (s.enqueue d code o) := by
  unfold State.enqueue
  split
  · refine ⟨fun _ is => is, fun hold claims => ⟨hold, claims⟩, fun _ => Iff.rfl, fun e mem owner _ => ?_⟩
    refine mem_joinInjection_other mem fun own => free ?_
    rw [← owner, own]
    rfl
  · exact .refl s

theorem Cuts.command (s : State) (k : CtxId) (code : Cmd) (d : Option DevId) : Cuts s (s.command k code d) := by
  unfold State.command
  split
  · next d =>
    split
    · next own =>
      refine .enqueue _ _ fun emergency => ?_
      unfold State.owns at own
      rw [emergency, Bool.and_eq_true] at own
      cases own.2
    · exact .refl s
  · exact .refl s

theorem Cuts.setOwner {s : State} {d : DevId} (free : (s.device d).owner ≠ .emergency) :
    Cuts s (s.setOwner d .processor) := by
  obtain ⟨D, _, shape⟩ := setOwner_shape s d .processor
  refine ⟨fun j is => ?_, fun hold claims => ?_, fun e => ?_, fun e mem _ _ => ?_⟩
  · rw [shape] at is
    exact is
  · rw [shape]
    exact ⟨hold, claims⟩
  · rw [setOwner_device]
    split
    · next own =>
      subst own
      exact iff_of_false (by intro is; cases is) free
    · exact Iff.rfl
  · rw [shape]
    exact mem

theorem Cuts.recheck (k : CtxId) (s : State) (d : DevId) (free : (s.device d).owner ≠ .emergency) :
    Cuts s (State.recheck k s d) := by
  have owner : ∀ e, ((s.updDevice d fun x => { x with deferred := none }).device e).owner = (s.device e).owner := fun e => by
    unfold State.updDevice State.setDevice State.device
    dsimp only
    rw [Sixteen.get_set]
    split
    · next own => rw [own]
    · rfl
  have emptied : Cuts s (s.updDevice d fun x => { x with deferred := none }) :=
    ⟨fun _ is => is, fun hold claims => ⟨hold, claims⟩, fun e => by rw [owner], fun _ mem _ _ => mem⟩
  unfold State.recheck
  split
  · exact .refl s
  · dsimp only
    split
    · exact emptied.trans (.enqueue _ _ (by rw [owner]; exact free))
    · exact emptied.trans (.raise _ _)
    · exact emptied

theorem Cuts.cancelCloses (s : State) (k : CtxId) : Cuts s (s.cancelCloses k) := by
  obtain ⟨D, _, shape⟩ := cancelCloses_shape s k
  rw [shape]
  refine ⟨fun _ is => is, fun hold claims => ⟨hold, claims⟩, fun _ => Iff.rfl, fun e mem _ code => ?_⟩
  refine List.mem_filter.2 ⟨mem, ?_⟩
  rw [code]
  rfl

theorem Cuts.release (s : State) (k : CtxId) : Cuts s (s.release k) := by
  have cancelled := Cuts.cancelCloses s k
  obtain ⟨t, ht⟩ : ∃ t, t = s.cancelCloses k := ⟨_, rfl⟩
  have free : ∀ d ∈ allDevices.filter fun d => t.owns k d, (t.device d).owner ≠ .emergency := fun d mem emergency => by
    have own := (List.mem_filter.1 mem).2
    unfold State.owns at own
    rw [emergency, Bool.and_eq_true] at own
    cases own.2
  have returned := Cuts.foldl (f := fun s d => s.setOwner d .processor) (fun _ _ free => .setOwner free) _ free
  have again := Cuts.foldl (f := State.recheck k) (fun s d free => .recheck k s d free) _
    fun d mem => mt (returned.emergency d).1 (free d mem)
  rw [← ht] at cancelled
  unfold State.release
  dsimp only
  rw [← ht]
  exact (cancelled.trans returned).trans again

theorem Cuts.withdrawClaim (s : State) (k : CtxId) : Cuts s (s.withdrawClaim k) := by
  obtain ⟨C, Y, others, own, hold, claims, shape⟩ := withdrawClaim_shape s k
  rw [shape]
  refine ⟨fun j is => ?_, fun free empty => ⟨hold free, ?_⟩, fun _ => Iff.rfl, fun _ mem _ _ => mem⟩
  · have is : (C.get j).state = .active := beq_iff_eq.1 is
    have same : (C.get j).state = (s.context j).state := by
      by_cases this : j = k
      · rw [this, own]
        rfl
      · rcases others j this with same | unclaimed
        · rw [same]
        · rw [unclaimed]
          rfl
    rw [same] at is
    exact beq_iff_eq.2 is
  · refine List.eq_nil_iff_forall_not_mem.2 fun j mem => ?_
    have old := claims j mem
    rw [empty] at old
    cases old

theorem Cuts.setSectionStates (s : State) (bs : List SecId) (st : SectionState) : Cuts s (s.setSectionStates bs st) := by
  obtain ⟨S, D, _, _, shape⟩ := setSectionStates_shape s bs st
  rw [shape]
  exact .light (fun _ is => is) rfl

theorem Cuts.workOutDemands (s : State) : Cuts s s.workOutDemands := by
  obtain ⟨D, _, shape⟩ := workOutDemands_shape s
  rw [shape]
  exact .light (fun _ is => is) rfl

theorem Cuts.parallelRule (s : State) (k : CtxId) : Cuts s (s.parallelRule k) := by
  unfold State.parallelRule
  dsimp only
  split
  · exact .refl s
  · split
    · exact .command s k _ _
    · exact .refl s

/-- The sections of an EMERGENCY ending are DISARMED, which leaves nothing to evaluate (R103). -/
theorem endSections_emergency (asg : State → State) (k : CtxId) (named : FourSet) (s : State) :
    s.endSections asg k .emergency named =
      s.setSectionStates (FourSet.toList (s.context k).set) .disarmed := by
  have none_ : ((FourSet.toList (s.context k).set).filter fun b => sectionAfter .emergency (named.get b) == .armed) = [] :=
    List.filter_eq_nil_iff.2 fun _ _ is => by cases is
  unfold State.endSections
  dsimp only
  rw [none_, evaluate_nil]
  rfl

theorem beginEnd_cuts (s : State) (k : CtxId) (r : Result) :
    Cuts s (s.beginEnd k r) ∧ (s.beginEnd k r).active k = false := by
  refine ⟨((Cuts.parallelRule s k).trans (.withdrawClaim _ k)).trans (.updContext _ k _ fun _ is => by cases is), ?_⟩
  unfold State.beginEnd
  rw [active_updContext_ite, if_pos rfl]
  rfl

theorem Cuts.setRecorder (s : State) (r : Recorder) : Cuts s { s with recorder := r } := .light (fun _ is => is) rfl

theorem Cuts.raiseEnd (s : State) (k : CtxId) (r : Result) : Cuts s (s.raiseEnd k r) := by
  unfold State.raiseEnd
  exact (Cuts.raise _ _).trans (.setRecorder _ _)

/-- A context that ends EMERGENCY. -/
theorem endContext_cuts (asg : State → State) (k : CtxId) (named : FourSet) (s : State) :
    Cuts s (endContext asg k .emergency named s) ∧ (endContext asg k .emergency named s).active k = false := by
  obtain ⟨begun, idle⟩ := beginEnd_cuts s k .emergency
  have rest : Cuts (s.beginEnd k .emergency) (endContext asg k .emergency named s) := by
    rw [endContext_eq, endSections_emergency]
    exact (((Cuts.workOutDemands _).trans (.release _ k)).trans (.setSectionStates _ _ _)).trans (.raiseEnd _ k _)
  refine ⟨begun.trans rest, Bool.eq_false_iff.2 fun is => ?_⟩
  rw [rest.active k is] at idle
  cases idle

theorem endEmergency_cuts (s : State) (k : CtxId) : Cuts s (s.endEmergency k) ∧ (s.endEmergency k).active k = false := by
  unfold State.endEmergency
  split
  · exact endContext_cuts assign k FourSet.none s
  · next idle => exact ⟨.refl s, Bool.eq_false_iff.2 idle⟩

/-- Every ACTIVE context ends (R162). -/
theorem endEmergencies_cuts (s : State) :
    Cuts s (allContexts.foldl State.endEmergency s) ∧ (allContexts.foldl State.endEmergency s).noTransfer := by
  have folds : ∀ (ks : List CtxId) (s : State), Cuts s (ks.foldl State.endEmergency s) ∧
      ∀ k ∈ ks, (ks.foldl State.endEmergency s).active k = false := by
    intro ks
    induction ks with
    | nil => exact fun s => ⟨.refl s, fun _ mem => by cases mem⟩
    | cons k ks ih =>
      intro s
      obtain ⟨first, idle⟩ := endEmergency_cuts s k
      obtain ⟨rest, others⟩ := ih (s.endEmergency k)
      refine ⟨first.trans rest, fun j mem => ?_⟩
      rcases List.mem_cons.1 mem with own | later
      · subst own
        refine Bool.eq_false_iff.2 fun is => ?_
        rw [rest.active j is] at idle
        cases idle
      · exact others j later
  obtain ⟨cuts, idle⟩ := folds allContexts s
  have every : ∀ k : CtxId, k ∈ allContexts := by decide
  exact ⟨cuts, fun k => idle k (every k)⟩

end Sys2Proof.Machine
end

section
/-! PROOFS. The setting of the Emergency Latch (R160 to R163), up to the end of its event. -/

namespace Sys2Proof.Machine

/-! ## The EMERGENCY frame, the selector, the devices (R160, R161) -/

/-- A frame frees the context that waits on its slot, if one does, and changes nothing else of the block. -/
theorem raise_shape (s : State) (i : Incident) :
    ∃ C R F D, (s.slotUnmarked → C = s.contexts ∧ R = s.recorded i ∧ F = s.freed) ∧
      s.raise i = { s with contexts := C, recorder := R, freed := F, dirty := D } := by
  cases waits : s.waitingOn s.recorder.index with
  | none => exact ⟨s.contexts, s.recorded i, s.freed, _, fun _ => ⟨rfl, rfl, rfl⟩, raise_recorded s i waits⟩
  | some k =>
    refine ⟨_, _, _, _, fun unmarked => ?_, raise_marked s i k waits⟩
    have none_ : s.waitingOn s.recorder.index = none := unmarked
    rw [waits] at none_
    cases none_

/-- A context's record, but that its claim may be gone. -/
def Context.unclaimedFrom (c x : Context) : Prop := x = c ∨ x = c.unclaimed

theorem Context.unclaimedFrom.trans {c x y : Context} (h : c.unclaimedFrom x) (g : x.unclaimedFrom y) :
    c.unclaimedFrom y := by
  rcases h with rfl | rfl
  · exact g
  · rcases g with rfl | rfl
    · exact .inr rfl
    · exact .inr rfl

theorem unclaim_shape (s : State) (k : CtxId) :
    ∀ j, (s.context j).unclaimedFrom ((s.contexts.set k (s.context k).unclaimed).get j) := fun j => by
  rw [Three.get_set]
  split
  · next own => exact .inr (by rw [own])
  · exact .inl rfl

theorem clearSync_shape (s : State) :
    ∃ C, (∀ k, (s.context k).unclaimedFrom (C.get k)) ∧
      s.clearSync = { s with contexts := C, sync := { hold := none, claims := [], due := [] } } := by
  have folds : ∀ (ks : List CtxId) (t : State), ∃ C, (∀ k, (t.context k).unclaimedFrom (C.get k)) ∧
      ks.foldl (fun s k => s.updContext k fun c => { c with claim := .none }) t = { t with contexts := C } := by
    intro ks
    induction ks with
    | nil => exact fun t => ⟨t.contexts, fun _ => .inl rfl, rfl⟩
    | cons k ks ih =>
      intro t
      obtain ⟨C, left, shape⟩ := ih (t.updContext k fun c => { c with claim := .none })
      exact ⟨C, fun j => (unclaim_shape t k j).trans (left j), shape⟩
  have released : ∃ C Y, (∀ k, (s.context k).unclaimedFrom (C.get k)) ∧
      s.releaseSync = { s with contexts := C, sync := Y } := by
    unfold State.releaseSync
    cases s.sync.hold with
    | none => exact ⟨s.contexts, s.sync, fun _ => .inl rfl, rfl⟩
    | some h => exact ⟨_, _, unclaim_shape s h.context, rfl⟩
  obtain ⟨C₁, Y, left₁, released⟩ := released
  obtain ⟨C, left, cleared⟩ := folds s.releaseSync.sync.claims s.releaseSync
  refine ⟨C, fun k => (left₁ k).trans ?_, ?_⟩
  · have step := left k
    rw [released] at step
    exact step
  · unfold State.clearSync
    dsimp only
    rw [cleared, released]

/-- Steps 1 and 2 of R160: the latch set, its frame raised, the selector free, the emergency-open devices taken. -/
def State.seizing (s : State) : State :=
  allDevices.foldl State.seize
    (({ s with latch := { s.latch with isSet := true } } : State).raise { cls := .emergency }).clearSync

theorem setLatch_eq (s : State) : s.setLatch = (allContexts.foldl State.endEmergency s.seizing).disarmAll := rfl

theorem seizing_shape (s : State) :
    ∃ C R F D, (s.slotUnmarked → R = s.recorded { cls := .emergency } ∧ F = s.freed ∧
        ∀ k, (s.context k).unclaimedFrom (C.get k)) ∧
      s.seizing = { s with
        latch := { s.latch with isSet := true }, contexts := C, recorder := R, freed := F,
        sync := { hold := none, claims := [], due := [] },
        devices := Sixteen.ofFn fun d => s.seizedRecord d (s.device d),
        injections := s.seizedQueues s.device allDevices s.injections, dirty := D } := by
  obtain ⟨v, hv⟩ : ∃ v : State, v = { s with latch := { s.latch with isSet := true } } := ⟨_, rfl⟩
  obtain ⟨C₁, R, F, D₁, unmarked, raised⟩ := raise_shape v { cls := .emergency }
  obtain ⟨x, hx⟩ : ∃ x, x = v.raise { cls := .emergency } := ⟨_, rfl⟩
  obtain ⟨C, left, cleared⟩ := clearSync_shape x
  obtain ⟨y, hy⟩ : ∃ y, y = x.clearSync := ⟨_, rfl⟩
  obtain ⟨D, _, taken⟩ := foldl_seize_shape y
  have xshape := hx.trans raised
  have yshape := hy.trans cleared
  refine ⟨C, R, F, D, fun free => ?_, ?_⟩
  · obtain ⟨contexts, recorder, freed⟩ := unmarked (by rw [hv]; exact free)
    refine ⟨by rw [recorder, hv]; rfl, by rw [freed, hv], fun k => ?_⟩
    have step := left k
    rw [xshape, contexts, hv] at step
    exact step
  · unfold State.seizing
    rw [← hv, ← hx, ← hy, taken, yshape, xshape, hv]
    rfl

/-! ## The end of the event -/

theorem disarmAll_shape (s : State) :
    ∃ S D, (∀ b, (S.get b).state = .disarmed ∨ (S.get b).state = .lockout) ∧
      s.disarmAll = { s with queue := [], sections := S, dirty := D } := by
  obtain ⟨D₁, _, emptied⟩ := setQueue_shape s []
  obtain ⟨S, D, _, sections, moved⟩ := setSectionStates_shape { s with queue := [], dirty := D₁ }
    (allFours.filter fun b => (s.section b).state != .lockout) .disarmed
  refine ⟨S, D, fun b => ?_, ?_⟩
  · have every : ∀ b : SecId, b ∈ allFours := by decide
    rw [sections]
    split
    · exact .inl rfl
    · next out =>
      refine .inr (Classical.byContradiction fun other => out ?_)
      exact List.mem_filter.2 ⟨every b, bne_iff_ne.2 other⟩
  · unfold State.disarmAll
    rw [emptied]
    exact moved

/-- The block once the latch has been set, `f` its line filter: no transfer, no request, the selector free. -/
structure Shut (f : Filter) (s : State) : Prop where
  isSet : s.latch.isSet = true
  filter : s.latch.filter = f
  idle : s.noTransfer
  queue : s.queue = []
  hold : s.sync.hold = none
  claims : s.sync.claims = []
  sections : ∀ b, (s.section b).state = .disarmed ∨ (s.section b).state = .lockout

section
variable {f : Filter} {s : State} (shut : Shut f s)
include shut

theorem Shut.unarmed (b : SecId) : (s.section b).state ≠ .armed := fun is => by
  rcases shut.sections b with other | other
  · rw [other] at is
    cases is
  · rw [other] at is
    cases is

theorem Shut.setDirty (D : List Nat) : Shut f { s with dirty := D } :=
  ⟨shut.isSet, shut.filter, shut.idle, shut.queue, shut.hold, shut.claims, shut.sections⟩

theorem Shut.replaced (m : Memory) : Shut f ((s.replaced m).markAll applicationOffsets) := by
  have replaced := replaced_replaced s m
  obtain ⟨w, hw⟩ : ∃ w, w = s.replaced m := ⟨_, rfl⟩
  rw [← hw] at replaced ⊢
  rw [markAll_markList]
  have same : ∀ b, (w.section b).state = (s.section b).state := fun b => by
    rw [replaced.sections]
    rfl
  have kept : Shut f w := by
    refine ⟨?_, ?_, fun k => ?_, ?_, ?_, ?_, fun b => by rw [same]; exact shut.sections b⟩
    · rw [replaced.latch]
      exact shut.isSet
    · rw [replaced.latch]
      exact shut.filter
    · rw [replaced.shape]
      exact shut.idle k
    · rw [replaced.shape]
      exact shut.queue
    · rw [replaced.shape]
      exact shut.hold
    · rw [replaced.shape]
      exact shut.claims
  exact kept.setDirty _

/-- A copy may be applied; no request is taken. -/
theorem Shut.afterFreeing : Shut f s.afterFreeing := by
  cases copy : s.store.pendingCopy with
  | none =>
    rw [afterFreeing_nothing s shut.queue copy]
    exact shut
  | some m =>
    cases free : s.allFree with
    | false =>
      rw [afterFreeing_waits copy free]
      exact shut
    | true =>
      rw [afterFreeing_quiet copy free shut.queue shut.unarmed]
      exact shut.replaced m

theorem Shut.setFreed (x : Three Bool) : Shut f { s with freed := x } :=
  ⟨shut.isSet, shut.filter, shut.idle, shut.queue, shut.hold, shut.claims, shut.sections⟩

theorem Shut.noDeadWait : s.noDeadWait := fun k both => by
  have idle := shut.idle k
  unfold State.active at idle
  rw [both.1] at idle
  cases idle

end

theorem Shut.settleFreed {f : Filter} (n : Nat) {s : State} (shut : Shut f s) : Shut f (Machine.settleFreed n s) := by
  induction n generalizing s with
  | zero => exact shut.setFreed _
  | succ n ih =>
    unfold Machine.settleFreed
    split
    · exact shut
    · exact ih (shut.setFreed _).afterFreeing

theorem Shut.finish {f : Filter} {s : State} (before : State) (shut : Shut f s) : Shut f (s.finish before) := by
  have settled := shut.settleFreed Config.freeingRounds
  have watched := settled.noDeadWait
  unfold State.finish
  obtain ⟨w, hw⟩ : ∃ w, w = Machine.settleFreed Config.freeingRounds s := ⟨_, rfl⟩
  rw [← hw] at settled watched ⊢
  rw [foldl_fixed _ _ fun k => watchDead_of_noDeadWait w k (watched k), markChanged_eq]
  exact settled.setDirty _

/-- Where no copy waits, the end of the event marks words and settles what its frames have freed. -/
theorem Shut.finish_shape {f : Filter} {s : State} (before : State) (shut : Shut f s)
    (none_ : s.store.pendingCopy = none ∨ s.settled) :
    ∃ D, s.finish before = { s with freed := Three.fill false, dirty := D } := by
  have ends : s.finish before = ({ s with freed := Three.fill false } : State).finish before := by
    rcases none_ with none_ | settled
    · exact finish_frees before shut.queue none_
    · rw [← (settled : s.freed = _)]
  obtain ⟨D, _, ended⟩ := Machine.finish_shape (u := { s with freed := Three.fill false }) before ⟨rfl, shut.noDeadWait⟩
  exact ⟨D, ends.trans ended⟩

end Sys2Proof.Machine
end

section
/-! PROOFS. An edge of the EOP line that sets the latch (R159 to R163). -/

namespace Sys2Proof.Machine

/-! ## The ACTIVE contexts end EMERGENCY (R162) -/

theorem endEmergencies_standing (s : State) : (allContexts.foldl State.endEmergency s).standing = s.standing := by
  refine fold_standing (fun s k => ?_) allContexts s
  unfold State.endEmergency
  split
  · exact (Leaves.endContext Stays.assign k .emergency FourSet.none s).standing
  · rfl

theorem endEmergencies_idle {s : State} (idle : s.noTransfer) : allContexts.foldl State.endEmergency s = s :=
  foldl_fixed _ _ (fun k => by
    unfold State.endEmergency
    rw [idle k]
    rfl) _

/-- A context that has ended stays so while another ends. -/
theorem Ended.keeps_endedWith {s u : State} {k j : CtxId} {r x : Result} {named : FourSet} (h : Ended s u k r named)
    (other : j ≠ k) (ended : s.endedWith j x) : u.endedWith j x := by
  obtain ⟨state, result, claim, timer, owns⟩ := ended
  refine ⟨?_, ?_, ?_, ?_, fun d => ?_⟩
  · rcases h.others j other with same | unclaimed
    · rw [same, state]
    · rw [unclaimed]
      exact state
  · rcases h.others j other with same | unclaimed
    · rw [same, result]
    · rw [unclaimed]
      exact result
  · rcases h.others j other with same | unclaimed
    · rw [same, claim]
    · rw [unclaimed]
      rfl
  · rcases h.others j other with same | unclaimed
    · rw [same, timer]
    · rw [unclaimed]
      exact timer
  · have before := owns d
    unfold State.owns at before ⊢
    rw [hasRecord_of_store h.store d, h.device d]
    show (s.hasRecord d && (s.releasedDevice k d).owner == .context j) = false
    unfold State.releasedDevice
    split
    · simp
    · exact before

theorem Ended.active_other {s u : State} {k j : CtxId} {r : Result} {named : FourSet} (h : Ended s u k r named)
    (other : j ≠ k) : u.active j = s.active j := by
  unfold State.active
  rcases h.others j other with same | unclaimed
  · rw [same]
  · rw [unclaimed]
    rfl

/-- Contexts that end one after another, the slots ahead carrying no mark: each is ENDING in the end. -/
theorem foldl_endEmergency_ended {ks : List CtxId} (nodup : ks.Nodup) (few : ks.length ≤ 14) {s : State}
    (room : s.room (s.deferredCount + ks.length)) :
    (ks.foldl State.endEmergency s).freed = s.freed ∧
      (∀ k ∈ ks, s.active k = true → (ks.foldl State.endEmergency s).endedWith k .emergency) ∧
      ∀ j, j ∉ ks → s.endedWith j .emergency → (ks.foldl State.endEmergency s).endedWith j .emergency := by
  induction ks generalizing s with
  | nil => exact ⟨rfl, fun _ mem => (by cases mem), fun _ _ ended => ended⟩
  | cons k ks ih =>
    obtain ⟨fresh, nodup⟩ := List.nodup_cons.1 nodup
    have few : ks.length ≤ 14 := Nat.le_of_succ_le few
    rw [List.foldl_cons]
    by_cases active : s.active k = true
    · have ended : Ended s (s.endEmergency k) k .emergency FourSet.none := by
        unfold State.endEmergency
        rw [if_pos active]
        exact endContext_ended assign (room.mono (by rw [List.length_cons]; omega))
          (endsQuietly_of_state fun _ is => by cases is)
      obtain ⟨freed, later, kept⟩ := ih nodup few (ended.room ks.length few (by
        rw [List.length_cons] at room
        exact room))
      refine ⟨freed.trans ended.freed, fun j mem is => ?_, fun j out before => ?_⟩
      · rcases List.mem_cons.1 mem with own | mem
        · subst own
          exact kept j fresh ended.endedWith
        · refine later j mem ?_
          rw [ended.active_other (ne_of_mem_of_not_mem mem fresh)]
          exact is
      · exact kept j (fun mem => out (List.mem_cons_of_mem _ mem))
          (ended.keeps_endedWith (fun own => out (by rw [own]; exact List.mem_cons_self)) before)
    · have same : s.endEmergency k = s := if_neg active
      rw [same]
      obtain ⟨freed, later, kept⟩ := ih nodup few (room.mono (by rw [List.length_cons]; omega))
      refine ⟨freed, fun j mem is => ?_, fun j out before => kept j (fun mem => out (List.mem_cons_of_mem _ mem)) before⟩
      rcases List.mem_cons.1 mem with own | mem
      · subst own
        exact absurd is active
      · exact later j mem is

/-! ## The latch set -/

theorem setLatch_shut (s : State) : Shut s.latch.filter s.setLatch := by
  obtain ⟨C, R, F, D, _, seizing⟩ := seizing_shape s
  obtain ⟨z, hz⟩ : ∃ z, z = s.seizing := ⟨_, rfl⟩
  have zshape := hz.trans seizing
  obtain ⟨cuts, idle⟩ := endEmergencies_cuts z
  have latch := latch_of_standing (endEmergencies_standing z)
  obtain ⟨w, hw⟩ : ∃ w, w = allContexts.foldl State.endEmergency z := ⟨_, rfl⟩
  rw [← hw] at cuts idle latch
  obtain ⟨S, E, sections, disarmed⟩ := disarmAll_shape w
  obtain ⟨hold, claims⟩ := cuts.sync (by rw [zshape]) (by rw [zshape])
  rw [setLatch_eq, ← hz, ← hw, disarmed]
  refine ⟨?_, ?_, idle, rfl, hold, claims, sections⟩
  · show w.latch.isSet = true
    rw [latch, zshape]
  · show w.latch.filter = _
    rw [latch, zshape]

/-- The event's frame alone where no context is ACTIVE. -/
theorem setLatch_still {s : State} (unmarked : s.slotUnmarked) (idle : s.noTransfer) :
    s.setLatch.recorder = s.recorded { cls := .emergency } ∧ s.setLatch.freed = s.freed := by
  obtain ⟨C, R, F, D, free, seizing⟩ := seizing_shape s
  obtain ⟨recorder, freed, left⟩ := free unmarked
  obtain ⟨z, hz⟩ : ∃ z, z = s.seizing := ⟨_, rfl⟩
  have zshape := hz.trans seizing
  have zidle : z.noTransfer := fun k => by
    have is := idle k
    unfold State.active State.context at is ⊢
    rw [zshape]
    rcases left k with same | unclaimed
    · rw [same]
      exact is
    · rw [unclaimed]
      exact is
  obtain ⟨S, E, _, disarmed⟩ := disarmAll_shape z
  rw [setLatch_eq, ← hz, endEmergencies_idle zidle, disarmed, zshape]
  exact ⟨recorder, freed⟩

/-- Every ACTIVE context ends EMERGENCY where no slot carries a mark: the log has room for all the frames. -/
theorem setLatch_ended {s : State} (noMarks : s.noMarks) :
    s.setLatch.freed = s.freed ∧ ∀ k, s.active k = true → s.setLatch.endedWith k .emergency := by
  obtain ⟨C, R, F, D, free, seizing⟩ := seizing_shape s
  obtain ⟨recorder, freed, left⟩ := free (room_of_noMarks noMarks 1).unmarked
  obtain ⟨z, hz⟩ : ∃ z, z = s.seizing := ⟨_, rfl⟩
  have zshape := hz.trans seizing
  have zmarks : z.noMarks := fun k => by
    rw [zshape]
    dsimp only
    rw [recorder]
    exact noMarks k
  obtain ⟨wfreed, ended, _⟩ := foldl_endEmergency_ended (ks := allContexts) (by decide) (by decide) (s := z)
    (room_of_noMarks zmarks _)
  obtain ⟨w, hw⟩ : ∃ w, w = allContexts.foldl State.endEmergency z := ⟨_, rfl⟩
  rw [← hw] at wfreed ended
  obtain ⟨S, E, _, disarmed⟩ := disarmAll_shape w
  rw [setLatch_eq, ← hz, ← hw, disarmed]
  refine ⟨?_, fun k active => ?_⟩
  · show w.freed = _
    rw [wfreed, zshape]
    exact freed
  · have every : ∀ k : CtxId, k ∈ allContexts := by decide
    refine ended k (every k) ?_
    unfold State.active State.context at active ⊢
    rw [zshape]
    rcases left k with same | unclaimed
    · rw [same]
      exact active
    · rw [unclaimed]
      exact active

/-- The OPEN of each device taken that is counted closed stands in the queue (R161). -/
theorem setLatch_opens (s : State) :
    s.setLatch.store = s.store ∧ ∀ d, s.hasRecord d = true → (s.entry d).emergencyOpen = true →
      (s.device d).owner ≠ .emergency → s.countedClosed d = true →
        ⟨d, .opn, (s.device d).tag + 1, .emergency⟩ ∈ s.setLatch.injections := by
  obtain ⟨C, R, F, D, _, seizing⟩ := seizing_shape s
  obtain ⟨z, hz⟩ : ∃ z, z = s.seizing := ⟨_, rfl⟩
  have zshape := hz.trans seizing
  obtain ⟨cuts, _⟩ := endEmergencies_cuts z
  have store := store_of_standing (endEmergencies_standing z)
  obtain ⟨w, hw⟩ : ∃ w, w = allContexts.foldl State.endEmergency z := ⟨_, rfl⟩
  rw [← hw] at cuts store
  obtain ⟨S, E, _, disarmed⟩ := disarmAll_shape w
  rw [setLatch_eq, ← hz, ← hw, disarmed]
  refine ⟨?_, fun d record opens owner closed => ?_⟩
  · show w.store = _
    rw [store, zshape]
  · have takes : s.seizable d (s.device d) = true := by
      unfold State.seizable
      rw [record, opens]
      exact bne_iff_ne.2 owner
    have queued : emergencyOpening d (s.device d) ∈ s.seizedQueues s.device allDevices s.injections :=
      seizedQueues_opens nodup_allDevices (mem_allDevices d) takes closed
    refine cuts.opens (emergencyOpening d (s.device d)) (by rw [zshape]; exact queued) ?_ rfl
    have record : z.device d = s.seizedRecord d (s.device d) := by
      rw [zshape]
      exact Sixteen.get_ofFn _ d
    show (z.device d).owner = .emergency
    rw [record]
    unfold State.seizedRecord
    rw [if_pos takes]

/-! ## The edge (R159) -/

/-- The line filter has completed its count: the level turns. -/
def State.turned (s : State) : State := { s with latch := { s.latch with filter := s.latch.filter.turn } }

theorem eopChanges_edge {s : State} (edge : s.isEdge (!s.latch.filter.level) = true) (clear : s.latch.isSet = false) :
    s.eopChanges = s.turned.setLatch := by
  have level : s.latch.filter.turn.level = !s.latch.filter.level := rfl
  unfold State.eopChanges
  dsimp only
  rw [level, edge, clear]
  rfl

/-- Settles O58: an edge sets the latch. -/
theorem edgeSetsTheLatch : Obligations.EdgeSetsTheLatch := by
  intro s change edge clear
  have row := exec_eopFilteredChange_due change
  have inside := (Inside.eopChanges s).trans (.finish _ s)
  have shut := setLatch_shut s.turned
  have still := setLatch_still (s := s.turned)
  have ending := setLatch_ended (s := s.turned)
  have opening := setLatch_opens s.turned
  rw [eopChanges_edge edge clear] at row inside
  generalize s.turned.setLatch = w at row inside shut still ending opening
  have after := shut.finish s
  have latchHolds := inside.latchHolds fun is => by
    rw [clear] at is
    cases is
  refine ⟨_, row, after.isSet, ?_, after.idle, after.queue, after.hold, after.claims, after.sections,
    latchHolds after.isSet, inside.image, fun settled unmarked idle => ?_, fun settled noMarks k active => ?_,
    fun _ none_ d record opens owner closed => ?_⟩
  · rw [after.filter]
    rfl
  · obtain ⟨recorder, freed⟩ := still unmarked idle
    obtain ⟨D, ended⟩ := shut.finish_shape s (.inr (freed.trans settled))
    rw [ended]
    exact recorder
  · obtain ⟨freed, ending⟩ := ending noMarks
    obtain ⟨D, ended⟩ := shut.finish_shape s (.inr (freed.trans settled))
    rw [ended]
    exact ending k active
  · obtain ⟨store, queued⟩ := opening
    obtain ⟨D, ended⟩ := shut.finish_shape s (.inl (by rw [store]; exact none_))
    rw [ended]
    exact queued d record opens owner closed

end Sys2Proof.Machine
end
